-- ==== Sys2Proof/Word.lean ====
section
/-! DEFINITION. The word types of the CTE: what the spec treats as bits, and the widths it gives them. -/

namespace Sys2Proof

/-- A byte: a character, a unit, one cell of a buffer (00_scope.md R6). -/
abbrev Byte := BitVec 8

/-- A 16-bit value: a packed name, a field value, a marker offset (41_fieldname.md R142, 42_message.md R161, 10_state.md R36). -/
abbrev Half := BitVec 16

/-- A host register, a command word: REG_WIDTH = 32 bits (00_scope.md R5). -/
abbrev Word := BitVec 32

/-- A host byte address: the window has 12 address bits (20_memory.md R60). -/
abbrev HostAddr := BitVec 12

end Sys2Proof
end

