-- ==== Sys2Proof/Config.lean ====
section
/-! DEFINITION. The implementation parameters of 00_scope.md R5 and the values the spec leaves to the outside world.
The parameters that a rule reads are plain data, held in State as `cfg`, so that a claim about every state is a claim
about every configuration. What no rule fixes is an opaque constant: nothing can be proved of its value. -/

namespace Sys2Proof

/-- Which function SCALE10F is (00_scope.md R5, 42_message.md R165, D20).
`reference` is the spec's reference definition, the named default; `other k` is the k-th of the functions an
implementation may have instead, of which nothing is known. DESIGN CHOICE: log 5. -/
inductive Scale10F where
  | reference
  | other (k : Nat)
  deriving DecidableEq, Repr

/-- The implementation parameters (00_scope.md R5). DOUT_CAP is not independent: `Config.doutCap`. -/
structure Config where
  /-- DIN_CAP, bytes of the decode input buffer -/
  dinCap : Nat
  /-- TX_CAP, bytes of the outgoing buffer -/
  txCap : Nat
  /-- RX_CAP, bytes of the response buffer -/
  rxCap : Nat
  /-- MOFF_CAP, entries of the marker-offset array -/
  moffCap : Nat
  /-- HEX_UPPER, whether 'A'-'F' decode as hex digits (40_hexcodec.md R111) -/
  hexUpper : Bool
  /-- SCALE10F, how a float is scaled (42_message.md R165) -/
  scale10f : Scale10F
  deriving DecidableEq, Repr

/-- DOUT_CAP = DIN_CAP / 8 records (00_scope.md R5). -/
def Config.doutCap (c : Config) : Nat := c.dinCap / 8

/-- The defaults of 00_scope.md R5. DESIGN CHOICE: log 4. -/
def Config.default : Config :=
  { dinCap := 24, txCap := 64, rxCap := 64, moffCap := 8, hexUpper := true, scale10f := .reference }

/-- FRAME_DIGITS, the maximum encoded message length in hex characters (00_scope.md R5). -/
def Config.frameDigits : Nat := 24

/-- BLOCK_DIGITS, hex characters per message field (00_scope.md R5). -/
def Config.blockDigits : Nat := 8

/-- SCALE10F where an implementation does not use the reference definition: any function at all. DESIGN CHOICE: log 5. -/
opaque Config.otherScale10f : Nat → Word → Option Half

/-- How far the external clock advances at its n-th sample after `pending` has run out: a free value (60_exceptions.md
R256, I7). An increment, so that samples are monotone by construction. DESIGN CHOICE: log 3. -/
opaque Config.freeClockAdvance : Nat → Nat

/-- TICK, the real duration of one clock tick: OPEN, and no rule depends on it (00_scope.md R5, I4). DESIGN CHOICE: log 6. -/
opaque Config.tick : Nat

end Sys2Proof
end

