-- ==== Sys2Proof/Syntax.lean ====
section
/-! DEFINITION. The commands of the CTE: one constructor per row of spec/opcode_table.json (30_encoding.md R94).
No constructor has a field, since no operand is in the command word (30_encoding.md R92). -/

namespace Sys2Proof

/-- The seventeen commands (30_encoding.md R94). -/
inductive Instr where
  /-- HEXENC.B, 40_hexcodec.md R112 -/
  | hexencB
  /-- HEXENC.H, 40_hexcodec.md R113 -/
  | hexencH
  /-- HEXENC.W, 40_hexcodec.md R114 -/
  | hexencW
  /-- HEXDIG, 40_hexcodec.md R115 -/
  | hexdig
  /-- HEXDEC.B, 40_hexcodec.md R116 -/
  | hexdecB
  /-- HEXDEC.H, 40_hexcodec.md R117 -/
  | hexdecH
  /-- HEXDEC.W, 40_hexcodec.md R118 -/
  | hexdecW
  /-- LETENC, 41_fieldname.md R144 -/
  | letenc
  /-- LETDEC, 41_fieldname.md R145 -/
  | letdec
  /-- NAMEPACK, 41_fieldname.md R146 -/
  | namepack
  /-- NAMEUNPK, 41_fieldname.md R147 -/
  | nameunpk
  /-- MSGCLR, 42_message.md R166 -/
  | msgclr
  /-- MSGADDI, 42_message.md R167 -/
  | msgaddi
  /-- MSGADDF, 42_message.md R168 -/
  | msgaddf
  /-- MSGADDS, 42_message.md R169 -/
  | msgadds
  /-- MSGDEC, 42_message.md R171 -/
  | msgdec
  /-- TXEXEC, 43_transaction.md R200 -/
  | txexec
  deriving DecidableEq, Repr

end Sys2Proof
end

