-- ==== Sys2Proof/WellFormed.lean ====
section
/-! DEFINITION. What is well-formed before anything runs: a command word (30_encoding.md R90, R95) and a configuration
(00_scope.md R5). An `Instr` has no operand field (30_encoding.md R92), so there is nothing to check in one: every
constructor is a well-formed instruction, and the checks stand at the word that names it. -/

namespace Sys2Proof

/-- RSV, bits 31:8 of a command word, is 0 (30_encoding.md R90). -/
def CommandWord.reservedClear (w : Word) : Bool := w.extractLsb' 8 24 == 0#24

/-- OPC, bits 7:0 of a command word, is in none of the illegal ranges that 30_encoding.md R95 lists. -/
def CommandWord.opcodeAssigned (w : Word) : Bool :=
  let opc := (w.extractLsb' 0 8).toNat
  !(opc == 0x00
    || (0x08 ≤ opc && opc ≤ 0x0F)
    || (0x14 ≤ opc && opc ≤ 0x1F)
    || (0x25 ≤ opc && opc ≤ 0x2F)
    || (0x31 ≤ opc && opc ≤ 0xFF))

/-- A command word that is not illegal (30_encoding.md R95). -/
def CommandWord.wellFormed (w : Word) : Bool :=
  CommandWord.reservedClear w && CommandWord.opcodeAssigned w

/-- DIN_CAP is legal: 8..512, a multiple of 8 (00_scope.md R5). -/
def Config.dinCapLegal (c : Config) : Bool := 8 ≤ c.dinCap && c.dinCap ≤ 512 && c.dinCap % 8 == 0

/-- TX_CAP is legal: 2..512 (00_scope.md R5). -/
def Config.txCapLegal (c : Config) : Bool := 2 ≤ c.txCap && c.txCap ≤ 512

/-- RX_CAP is legal: 1..512 (00_scope.md R5). -/
def Config.rxCapLegal (c : Config) : Bool := 1 ≤ c.rxCap && c.rxCap ≤ 512

/-- MOFF_CAP is legal: 1..128 (00_scope.md R5). -/
def Config.moffCapLegal (c : Config) : Bool := 1 ≤ c.moffCap && c.moffCap ≤ 128

/-- A configuration inside the legal ranges of 00_scope.md R5. -/
def Config.legal (c : Config) : Bool :=
  c.dinCapLegal && c.txCapLegal && c.rxCapLegal && c.moffCapLegal

end Sys2Proof
end

