-- ==== Sys2Proof/Decode.lean ====
section
/-! DEFINITION. The decoder of command words, total on all 2^32 of them, and the encoder, both from the opcode map of
30_encoding.md R94. -/

namespace Sys2Proof

/-- Why a command word names no command (30_encoding.md R95). The CTE answers either with ERR <- ILLEGAL (R91). -/
inductive DecodeError where
  /-- RSV, bits 31:8, is not 0 -/
  | reservedBits
  /-- OPC is not in the opcode map -/
  | unassignedOpcode
  deriving DecidableEq, Repr

/-- OPC, bits 7:0 of a command word (30_encoding.md R90). -/
def opcField (w : Word) : Byte := w.extractLsb' 0 8

/-- RSV, bits 31:8 of a command word (30_encoding.md R90). -/
def rsvField (w : Word) : BitVec 24 := w.extractLsb' 8 24

/-- The opcode map read from opcode to command (30_encoding.md R94). -/
def instrOfOpcode (opc : Byte) : Option Instr :=
  match opc with
  | 0x01#8 => some .hexencB
  | 0x02#8 => some .hexencH
  | 0x03#8 => some .hexencW
  | 0x04#8 => some .hexdig
  | 0x05#8 => some .hexdecB
  | 0x06#8 => some .hexdecH
  | 0x07#8 => some .hexdecW
  | 0x10#8 => some .letenc
  | 0x11#8 => some .letdec
  | 0x12#8 => some .namepack
  | 0x13#8 => some .nameunpk
  | 0x20#8 => some .msgclr
  | 0x21#8 => some .msgaddi
  | 0x22#8 => some .msgaddf
  | 0x23#8 => some .msgadds
  | 0x24#8 => some .msgdec
  | 0x30#8 => some .txexec
  | _ => none

/-- Decoding: RSV is checked first, then OPC; nothing else is read (30_encoding.md R90, R91). -/
def decode (w : Word) : Except DecodeError Instr :=
  if rsvField w ≠ 0#24 then .error .reservedBits
  else
    match instrOfOpcode (opcField w) with
    | some i => .ok i
    | none => .error .unassignedOpcode

/-- The opcode map read from command to opcode (30_encoding.md R94). -/
def opcodeOf (i : Instr) : Byte :=
  match i with
  | .hexencB => 0x01
  | .hexencH => 0x02
  | .hexencW => 0x03
  | .hexdig => 0x04
  | .hexdecB => 0x05
  | .hexdecH => 0x06
  | .hexdecW => 0x07
  | .letenc => 0x10
  | .letdec => 0x11
  | .namepack => 0x12
  | .nameunpk => 0x13
  | .msgclr => 0x20
  | .msgaddi => 0x21
  | .msgaddf => 0x22
  | .msgadds => 0x23
  | .msgdec => 0x24
  | .txexec => 0x30

/-- The command word of a command: RSV = 0 above OPC (30_encoding.md R90). -/
def encode (i : Instr) : Word := 0#24 ++ opcodeOf i

/-- The command word in the low `nbits` bits of `w`, as spec/opcode_table.json numbers them; bits above are 0. -/
def tableWord (nbits w : Nat) : Word := BitVec.ofNat 32 (w % 2 ^ nbits)

/-- The command the decoder reads from a word of spec/opcode_table.json. -/
def decodeTableWord (nbits w : Nat) : Option Instr :=
  match decode (tableWord nbits w) with
  | .ok i => some i
  | .error _ => none

end Sys2Proof
end

