-- ==== Sys2Proof/Machine/State.lean ====
section
/-! DEFINITION. The state of the CTE as plain data: the host registers, the buffers, the engine, the external channel and
clock, and the events still to come (10_state.md, 60_exceptions.md R256, R258). -/

namespace Sys2Proof.Machine

/-- The buffers, one sparse byte memory keyed by host address, in one canonical form: addresses strictly rising, no entry
equal to what an unlisted address reads as. DEDUCED: log 7. -/
abbrev Memory := List Host.Cell

/-- What a byte nothing has written reads as: every buffer byte is 0x00 at reset (70_reset_and_hazards.md R280). -/
def Memory.unlisted : Byte := 0x00

/-- The canonical form holds. -/
abbrev Memory.wf (m : Memory) : Prop :=
  m.Pairwise (fun c d => c.1 < d.1) ∧ ∀ c ∈ m, c.2 ≠ Memory.unlisted

/-- The seventeen host registers (10_state.md R20). -/
inductive Reg where
  | cmd | status | opa | opb | resa | resb | mlen | dlen | dcnt
  | txlen | timeout | expect | txcfg | bitrate | rxlen | mcount | txsent
  deriving DecidableEq, Repr

/-- What the host may do with a register (10_state.md R20). -/
inductive Access where
  | r | w | rw
  deriving DecidableEq, Repr

/-- The six buffers (10_state.md R31-R36). -/
inductive Buf where
  | msg | din | dout | tx | rx | moff
  deriving DecidableEq, Repr

/-- The codes of STATUS.ERR (60_exceptions.md R250). -/
inductive ErrCode where
  | ok | illegal | capacity | range | arg
  deriving DecidableEq, Repr

/-- The codes of STATUS.TXRES (10_state.md R21, 60_exceptions.md R251). -/
inductive TxRes where
  | none | ok | noresp | reply
  deriving DecidableEq, Repr

/-- ENG.state (10_state.md R37). -/
inductive EngState where
  | idle | run
  deriving DecidableEq, Repr

/-- The transaction engine's own state, which the host cannot read directly (10_state.md R37). -/
structure Engine where
  state : EngState
  /-- the outbound units, fixed at issue -/
  units : List Byte
  /-- index of the next unit to send -/
  k : Nat
  /-- the clock value after which the loop ends -/
  deadline : Nat
  /-- TIMEOUT as captured at issue -/
  timeout : Nat
  /-- EXPECT as captured at issue -/
  expect : Nat
  /-- TXCFG.MARKER as captured at issue -/
  marker : Byte
  deriving DecidableEq, Repr

/-- The external serial channel: its open flag and inbound FIFO (60_exceptions.md R258), and the model's own record of
what the engine handed to it (`rate`, `outbound`; DESIGN CHOICE: log 9). -/
structure Channel where
  isOpen : Bool
  /-- bytes delivered and not yet read, oldest first -/
  inbound : List Byte
  /-- the rate the last `chan_open` passed to the port -/
  rate : Option Word
  /-- the units handed over by `chan_write` since the last `chan_open`, oldest first -/
  outbound : List Byte
  deriving DecidableEq, Repr

/-- The external monotonic clock (60_exceptions.md R256). Each sample adds an increment to the one before it: first the
increments of `pending`, then free values. DESIGN CHOICE: log 3. -/
structure Clock where
  /-- the latest sample -/
  last : Nat
  /-- increments the environment has fixed in advance, the next one first -/
  pending : List Nat
  /-- how many free increments have been drawn -/
  drawn : Nat
  deriving DecidableEq, Repr

/-- One host bus access (20_memory.md R61-R63): its width in bits, its address, and for a write its data, of which the low
`width` bits are meant. An access of any width may be attempted (R63). DESIGN CHOICE: log 12. -/
inductive HostAccess where
  | read (width : Nat) (addr : HostAddr)
  | write (width : Nat) (addr : HostAddr) (data : Word)
  deriving DecidableEq, Repr

/-- One step of an agent (20_memory.md R70), or of the reset input (70_reset_and_hazards.md R280). -/
inductive Event where
  /-- the host performs one bus access -/
  | host (a : HostAccess)
  /-- the engine takes its enabled step, if it has one (43_transaction.md R203) -/
  | engine
  /-- the channel delivers one inbound byte, if it is open (60_exceptions.md R258) -/
  | deliver (b : Byte)
  /-- the reset input is asserted (70_reset_and_hazards.md R280, R281) -/
  | reset
  deriving DecidableEq, Repr

/-- What a host read answered (20_memory.md R61, R62, R64): the width of the access and the value. -/
structure BusReply where
  width : Nat
  data : Word
  deriving DecidableEq, Repr

/-- Everything the spec gives the machine. -/
structure State where
  /-- the implementation parameters (00_scope.md R5); no step changes them -/
  cfg : Config
  /-- STATUS (10_state.md R21), read and written through Machine/Flags.lean -/
  status : Word
  /-- OPA (10_state.md R23) -/
  opa : Word
  /-- OPB (10_state.md R23) -/
  opb : Word
  /-- RESA (10_state.md R24) -/
  resa : Word
  /-- RESB (10_state.md R24) -/
  resb : Word
  /-- MLEN (10_state.md R25) -/
  mlen : Word
  /-- DLEN (10_state.md R26) -/
  dlen : Word
  /-- DCNT (10_state.md R26) -/
  dcnt : Word
  /-- TXLEN (10_state.md R27) -/
  txlen : Word
  /-- TIMEOUT (10_state.md R28) -/
  timeout : Word
  /-- EXPECT (10_state.md R28) -/
  expect : Word
  /-- TXCFG (10_state.md R29) -/
  txcfg : Word
  /-- BITRATE (10_state.md R29) -/
  bitrate : Word
  /-- RXLEN (10_state.md R30) -/
  rxlen : Word
  /-- MCOUNT (10_state.md R30) -/
  mcount : Word
  /-- TXSENT (10_state.md R30) -/
  txsent : Word
  /-- MSG, DIN, DOUT, TX, RX, MOFF (10_state.md R31-R36) -/
  mem : Memory
  /-- ENG (10_state.md R37) -/
  eng : Engine
  /-- the serial channel (60_exceptions.md R258) -/
  chan : Channel
  /-- the clock (60_exceptions.md R256) -/
  clock : Clock
  /-- the model's own: the steps the environment and the scheduler take next. DESIGN CHOICE: log 1 -/
  agenda : List Event
  /-- the model's own: the answer of the last host read. DESIGN CHOICE: log 8 -/
  reply : Option BusReply
  deriving DecidableEq, Repr

/-- Why the machine stops. -/
inductive Fault where
  /-- A host fault: the host wrote CMD while STATUS.BUSY = 1 (70_reset_and_hazards.md R285, R286, 30_encoding.md R91).
  Raised by `issue`. Safe: the spec leaves what follows unspecified, and nothing is claimed about it. -/
  | cmdWhileBusy
  deriving DecidableEq, Repr

/-- Why an instruction has no meaning. -/
inductive Refusal where
  /-- An arm of `exec` that is not modelled yet, by its mnemonic. Raised by no arm now. Safe: the machine stops. -/
  | notModelled (mnemonic : String)
  deriving DecidableEq, Repr

/-- The engine at reset (10_state.md R37). -/
def Engine.reset : Engine :=
  { state := .idle, units := [], k := 0, deadline := 0, timeout := 0, expect := 0, marker := 0x00 }

/-- The machine after reset (70_reset_and_hazards.md R280): every register 0, every buffer byte 0x00, the engine IDLE, the
channel closed. The fields the spec gives no value (`clock`, `agenda`, `reply`, `chan.rate`, `chan.outbound`, `cfg`) hold
the values that logs 1, 3, 4, 8 and 9 name. -/
def State.reset : State :=
  { cfg := Config.default
    status := 0, opa := 0, opb := 0, resa := 0, resb := 0, mlen := 0, dlen := 0, dcnt := 0
    txlen := 0, timeout := 0, expect := 0, txcfg := 0, bitrate := 0, rxlen := 0, mcount := 0, txsent := 0
    mem := []
    eng := Engine.reset
    chan := { isOpen := false, inbound := [], rate := none, outbound := [] }
    clock := { last := 0, pending := [], drawn := 0 }
    agenda := []
    reply := none }

end Sys2Proof.Machine
end

