-- ==== Sys2Proof/Machine/Operands.lean ====
section
/-! DEFINITION. The operand forms of 30_encoding.md R93: every way a command reads OPA and OPB. All other bits of the two
registers are ignored. -/

namespace Sys2Proof.Machine

/-- Character `k` of a register operand or result: bits `[8k+7:8k]` (20_memory.md R68). -/
def lane (w : Word) (k : Nat) : Byte := w.extractLsb' (8 * k) 8

/-- A register holding the characters c0..c3, c0 in bits 7:0 (20_memory.md R68). -/
def lanes (c0 c1 c2 c3 : Byte) : Word := c3 ++ c2 ++ c1 ++ c0

/-- Form "byte value": OPA[7:0]. -/
def opByte (s : State) : Byte := s.opa.extractLsb' 0 8

/-- Form "half value": OPA[15:0]. -/
def opHalf (s : State) : Half := s.opa.extractLsb' 0 16

/-- Form "word value": OPA[31:0]. -/
def opWord (s : State) : Word := s.opa

/-- Form "signed integer": OPA[31:0] as two's complement. -/
def opSigned (s : State) : Int := s.opa.toInt

/-- Form "code": OPA[4:0]. -/
def opCode (s : State) : BitVec 5 := s.opa.extractLsb' 0 5

/-- Character `k` of the forms "2 chars", "4 chars" and "8 chars": 0..3 from OPA, 4..7 from OPB. -/
def opChar (s : State) (k : Nat) : Byte := if k < 4 then lane s.opa k else lane s.opb (k - 4)

/-- Character `k` of the form "name": OPB[7:0], OPB[15:8], OPB[23:16]. -/
def opName (s : State) (k : Nat) : Byte := lane s.opb k

/-- Character `k` of the form "3-char string": OPA[7:0], OPA[15:8], OPA[23:16]. -/
def opString (s : State) (k : Nat) : Byte := lane s.opa k

end Sys2Proof.Machine
end

