-- ==== Sys2Proof/Machine/Letters.lean ====
section
/-! DEFINITION. The letter functions of the field-name codec (41_fieldname.md R140-R143). -/

namespace Sys2Proof.Machine

/-- `code(c)`: 1-26 for letters of either case, 27-31 for '0'-'4', else the sentinel 0 (41_fieldname.md R140). -/
def letterCode (c : Byte) : BitVec 5 :=
  if 0x61 ≤ c ∧ c ≤ 0x7A then (c - 0x60).setWidth 5
  else if 0x41 ≤ c ∧ c ≤ 0x5A then (c - 0x40).setWidth 5
  else if 0x30 ≤ c ∧ c ≤ 0x34 then (c - 0x30 + 27).setWidth 5
  else 0

/-- `letter(k)`: 0x00 for the null slot, else a lower-case letter or a digit 0-4 (41_fieldname.md R141). -/
def codeLetter (k : BitVec 5) : Byte :=
  if k = 0 then 0x00
  else if k.toNat ≤ 26 then 0x60 + k.setWidth 8
  else 0x30 + (k.setWidth 8 - 27)

/-- `pack(c0, c1, c2)`: bit 15 is 0, c0 in bits 14:10, c1 in 9:5, c2 in 4:0 (41_fieldname.md R142). -/
def packName (c0 c1 c2 : Byte) : Half := 0#1 ++ letterCode c0 ++ letterCode c1 ++ letterCode c2

/-- Three name slots and the length of the name (41_fieldname.md R143). -/
structure NameSlots where
  s0 : Byte
  s1 : Byte
  s2 : Byte
  len : Byte
  deriving DecidableEq, Repr

/-- The length of a name: the slots before the first null one (41_fieldname.md R143). -/
def slotsLen (s0 s1 s2 : Byte) : Byte :=
  if s0 = 0x00 then 0 else if s1 = 0x00 then 1 else if s2 = 0x00 then 2 else 3

/-- `unpack(n)`: each slot decoded on its own, bit 15 ignored (41_fieldname.md R143). -/
def unpackName (n : Half) : NameSlots :=
  let s0 := codeLetter (n.extractLsb' 10 5)
  let s1 := codeLetter (n.extractLsb' 5 5)
  let s2 := codeLetter (n.extractLsb' 0 5)
  { s0 := s0, s1 := s1, s2 := s2, len := slotsLen s0 s1 s2 }

end Sys2Proof.Machine
end

