-- ==== Sys2Proof/Machine/Flags.lean ====
section
/-! DEFINITION. The fields of STATUS and TXCFG and every code written into them (10_state.md R21, R29,
60_exceptions.md R250, R251). The CTE has no condition codes (10_state.md R39): these are its only flags. -/

namespace Sys2Proof.Machine

/-- The field of `n` bits from bit `lo` up (00_scope.md R6). -/
def getField (w : Word) (lo n : Nat) : BitVec n := w.extractLsb' lo n

/-- `w` with the `n` bits from bit `lo` up replaced by `v`, every other bit kept. -/
def setField {n : Nat} (w : Word) (lo : Nat) (v : BitVec n) : Word :=
  (w &&& ~~~(((BitVec.allOnes n).setWidth 32) <<< lo)) ||| ((v.setWidth 32) <<< lo)

/-- The number that stands for a result in STATUS.ERR (60_exceptions.md R250). -/
def ErrCode.code (e : ErrCode) : BitVec 4 :=
  match e with
  | .ok => 0
  | .illegal => 1
  | .capacity => 2
  | .range => 3
  | .arg => 4

/-- The number that stands for a result in STATUS.TXRES (10_state.md R21). -/
def TxRes.code (r : TxRes) : BitVec 2 :=
  match r with
  | .none => 0
  | .ok => 1
  | .noresp => 2
  | .reply => 3

/-- STATUS.BUSY, bit 0. -/
def statusBusy (w : Word) : Bool := w.getLsbD 0

/-- STATUS.BERR, bit 1. -/
def statusBerr (w : Word) : Bool := w.getLsbD 1

/-- STATUS.RXOVF, bit 2. -/
def statusRxovf (w : Word) : Bool := w.getLsbD 2

/-- STATUS.ERR, bits 7:4. -/
def statusErr (w : Word) : BitVec 4 := getField w 4 4

/-- STATUS.TXRES, bits 9:8. -/
def statusTxres (w : Word) : BitVec 2 := getField w 8 2

/-- STATUS with BUSY written. -/
def setBusy (b : Bool) (w : Word) : Word := setField w 0 (BitVec.ofBool b)

/-- STATUS with BERR set; only reset clears it (10_state.md R21). -/
def setBerr (w : Word) : Word := setField w 1 (BitVec.ofBool true)

/-- STATUS with RXOVF written. -/
def setRxovf (b : Bool) (w : Word) : Word := setField w 2 (BitVec.ofBool b)

/-- STATUS with ERR written: `status_err` of 00_scope.md R7. -/
def setErr (e : ErrCode) (w : Word) : Word := setField w 4 e.code

/-- STATUS with TXRES written. -/
def setTxres (r : TxRes) (w : Word) : Word := setField w 8 r.code

/-- TXCFG.MODE, bit 0: false is binary mode, true AT mode (10_state.md R29). -/
def txcfgMode (w : Word) : Bool := w.getLsbD 0

/-- TXCFG.MARKER, bits 15:8 (10_state.md R29). -/
def txcfgMarker (w : Word) : Byte := getField w 8 8

/-- The bits TXCFG stores: MODE and MARKER; all others ignore writes and read 0 (10_state.md R29). -/
def txcfgMask : Word := 0x0000FF01

end Sys2Proof.Machine
end

