-- ==== Sys2Proof/Machine/Ops.lean ====
section
/-! DEFINITION. The named operations every meaning is written over: the buffers' memory, the host address map, the registers,
the acceptance and the rejection of a command, the bus error, the clock and the channel.

The CTE has no exception entry and no return from one (60_exceptions.md R254). What a machine with traps does in one shared
operation stands here as `State.reject` (a command turned away) and `State.busError` (an access turned away). -/

namespace Sys2Proof.Machine

/-! ## The buffers' memory -/

/-- The byte at a host address (00_scope.md R7 `BUF[i]`). -/
def Memory.read (m : Memory) (a : Nat) : Byte :=
  match m with
  | [] => Memory.unlisted
  | (a', b) :: rest => if a = a' then b else Memory.read rest a

/-- A cell put in its place among rising addresses, where no cell of its address is listed. -/
def Memory.insert (m : Memory) (a : Nat) (b : Byte) : Memory :=
  match m with
  | [] => [(a, b)]
  | (a', b') :: rest => if a < a' then (a, b) :: (a', b') :: rest else (a', b') :: Memory.insert rest a b

/-- The byte at a host address replaced (00_scope.md R7 `BUF[i] <- b`). A byte equal to what an unlisted address reads as
is not listed, so equal memories are equal data. -/
def Memory.write (m : Memory) (a : Nat) (b : Byte) : Memory :=
  let others := m.filter (fun c => c.1 != a)
  if b = Memory.unlisted then others else Memory.insert others a b

/-- Consecutive bytes written from an address up. -/
def Memory.writeBytes (m : Memory) (a : Nat) (bs : List Byte) : Memory :=
  match bs with
  | [] => m
  | b :: rest => Memory.writeBytes (Memory.write m a b) (a + 1) rest

/-- `n` bytes from an address up set to 0x00. -/
def Memory.clear (m : Memory) (a n : Nat) : Memory := m.filter (fun c => !(a ≤ c.1 && c.1 < a + n))

/-- `n` bytes from an address up. -/
def Memory.readBytes (m : Memory) (a n : Nat) : List Byte := (List.range n).map (fun i => Memory.read m (a + i))

/-! ## The host address map -/

/-- The address of byte 0 of a buffer (20_memory.md R60). -/
def Buf.base (b : Buf) : Nat :=
  match b with
  | .msg => 0x100
  | .din => 0x200
  | .dout => 0x400
  | .tx => 0x600
  | .rx => 0x800
  | .moff => 0xA00

/-- The implemented bytes of a buffer (20_memory.md R60). -/
def Buf.size (cfg : Config) (b : Buf) : Nat :=
  match b with
  | .msg => Config.frameDigits
  | .din => cfg.dinCap
  | .dout => 8 * cfg.doutCap
  | .tx => cfg.txCap
  | .rx => cfg.rxCap
  | .moff => 2 * cfg.moffCap

/-- Whether the host may write a buffer: only DIN and TX (20_memory.md R62). -/
def Buf.hostWritable (b : Buf) : Bool :=
  match b with
  | .din | .tx => true
  | .msg | .dout | .rx | .moff => false

/-- The host address of byte `i` of a buffer (20_memory.md R60). -/
def Buf.addr (b : Buf) (i : Nat) : Nat := b.base + i

/-- The address lies in the implemented part of a buffer (20_memory.md R60). -/
def Buf.holds (cfg : Config) (b : Buf) (a : Nat) : Bool := b.base ≤ a && a < b.base + b.size cfg

/-- The buffer whose implemented part holds an address (20_memory.md R62). -/
def bufAt (cfg : Config) (a : Nat) : Option Buf :=
  [Buf.msg, .din, .dout, .tx, .rx, .moff].find? (fun b => b.holds cfg a)

/-- The address of a register (10_state.md R20). -/
def Reg.addr (r : Reg) : HostAddr :=
  match r with
  | .cmd => 0x000
  | .status => 0x004
  | .opa => 0x008
  | .opb => 0x00C
  | .resa => 0x010
  | .resb => 0x014
  | .mlen => 0x018
  | .dlen => 0x01C
  | .dcnt => 0x020
  | .txlen => 0x024
  | .timeout => 0x028
  | .expect => 0x02C
  | .txcfg => 0x030
  | .bitrate => 0x034
  | .rxlen => 0x038
  | .mcount => 0x03C
  | .txsent => 0x040

/-- What the host may do with a register (10_state.md R20). -/
def Reg.access (r : Reg) : Access :=
  match r with
  | .cmd => .w
  | .opa | .opb | .dlen | .txlen | .timeout | .expect | .txcfg | .bitrate => .rw
  | .status | .resa | .resb | .mlen | .dcnt | .rxlen | .mcount | .txsent => .r

/-- The register at an address: none but at the seventeen addresses, which are multiples of 4 (20_memory.md R61, R63). -/
def regAt (a : HostAddr) : Option Reg :=
  [Reg.cmd, .status, .opa, .opb, .resa, .resb, .mlen, .dlen, .dcnt, .txlen, .timeout, .expect, .txcfg, .bitrate,
    .rxlen, .mcount, .txsent].find? (fun r => r.addr == a)

/-! ## The registers -/

/-- A register read whole; CMD holds no value and reads 0 (10_state.md R22). -/
def readReg (s : State) (r : Reg) : Word :=
  match r with
  | .cmd => 0
  | .status => s.status
  | .opa => s.opa
  | .opb => s.opb
  | .resa => s.resa
  | .resb => s.resb
  | .mlen => s.mlen
  | .dlen => s.dlen
  | .dcnt => s.dcnt
  | .txlen => s.txlen
  | .timeout => s.timeout
  | .expect => s.expect
  | .txcfg => s.txcfg
  | .bitrate => s.bitrate
  | .rxlen => s.rxlen
  | .mcount => s.mcount
  | .txsent => s.txsent

/-- The host's store to a register it may write: as written, TXCFG keeping its fields only (10_state.md R23, R26-R29).
A register the host may not write is left as it is, and CMD stores nothing. -/
def writeReg (s : State) (r : Reg) (v : Word) : State :=
  match r with
  | .opa => { s with opa := v }
  | .opb => { s with opb := v }
  | .dlen => { s with dlen := v }
  | .txlen => { s with txlen := v }
  | .timeout => { s with timeout := v }
  | .expect => { s with expect := v }
  | .txcfg => { s with txcfg := v &&& txcfgMask }
  | .bitrate => { s with bitrate := v }
  | .cmd | .status | .resa | .resb | .mlen | .dcnt | .rxlen | .mcount | .txsent => s

/-! ## Acceptance, rejection and the bus error -/

/-- An accepted codec command's results: RESA, RESB and ERR = OK (10_state.md R24, 60_exceptions.md R250). -/
def State.accept (s : State) (ra rb : Word) : State :=
  { s with resa := ra, resb := rb, status := setErr .ok s.status }

/-- A command turned away: ERR only (60_exceptions.md R250, R254). -/
def State.reject (s : State) (e : ErrCode) : State := { s with status := setErr e s.status }

/-- An access turned away: BERR only (20_memory.md R64). -/
def State.busError (s : State) : State := { s with status := setBerr s.status }

/-! ## The clock (60_exceptions.md R256) -/

/-- The clock moved on by one sample; the sample is the new `last`. DESIGN CHOICE: log 3. -/
def Clock.sample (c : Clock) : Clock :=
  match c.pending with
  | d :: rest => { c with last := c.last + d, pending := rest }
  | [] => { c with last := c.last + Config.freeClockAdvance c.drawn, drawn := c.drawn + 1 }

/-! ## The channel (60_exceptions.md R258) -/

/-- `chan_open(rate)`: open, the inbound FIFO emptied, the rate passed on. -/
def Channel.openAt (_c : Channel) (rate : Word) : Channel :=
  { isOpen := true, inbound := [], rate := some rate, outbound := [] }

/-- `chan_write(u)`: the byte is handed over; it never blocks and never fails. -/
def Channel.write (c : Channel) (u : Byte) : Channel := { c with outbound := c.outbound ++ [u] }

/-- `chan_available()`: the number of bytes in the inbound FIFO. -/
def Channel.available (c : Channel) : Nat := c.inbound.length

/-- `chan_read()`: the oldest inbound byte and the channel without it; none exactly when nothing is available. -/
def Channel.read (c : Channel) : Option (Byte × Channel) :=
  match c.inbound with
  | [] => none
  | b :: rest => some (b, { c with inbound := rest })

/-- `chan_close()`: closed, the inbound FIFO emptied. -/
def Channel.close (c : Channel) : Channel := { c with isOpen := false, inbound := [] }

/-- Delivery of one byte by the channel agent: appended while open, otherwise no such step exists and nothing happens.
DESIGN CHOICE: log 1. -/
def Channel.deliver (c : Channel) (b : Byte) : Channel :=
  if c.isOpen then { c with inbound := c.inbound ++ [b] } else c

end Sys2Proof.Machine
end

