-- ==== Sys2Proof/Machine/FieldName.lean ====
section
/-! DEFINITION. The field-name codec commands (41_fieldname.md R144-R147). They write RESA, RESB and STATUS.ERR only. -/

namespace Sys2Proof.Machine

/-- LETENC (41_fieldname.md R144). -/
def execLetenc (s : State) : Host.Outcome State Fault Refusal :=
  .next (s.accept ((letterCode (opByte s)).setWidth 32) 0)

/-- LETDEC (41_fieldname.md R145). -/
def execLetdec (s : State) : Host.Outcome State Fault Refusal :=
  .next (s.accept ((codeLetter (opCode s)).setWidth 32) 0)

/-- NAMEPACK (41_fieldname.md R146). -/
def execNamepack (s : State) : Host.Outcome State Fault Refusal :=
  .next (s.accept ((packName (opName s 0) (opName s 1) (opName s 2)).setWidth 32) 0)

/-- NAMEUNPK (41_fieldname.md R147). -/
def execNameunpk (s : State) : Host.Outcome State Fault Refusal :=
  let u := unpackName (opHalf s)
  .next (s.accept (lanes u.s0 u.s1 u.s2 u.len) 0)

end Sys2Proof.Machine
end

