-- ==== Sys2Proof/Machine/HexDigits.lean ====
section
/-! DEFINITION. The digit functions of the hex codec and the byte order (40_hexcodec.md R110, R111, 20_memory.md R67). -/

namespace Sys2Proof.Machine

/-- `hexchar(n)`: the ASCII lowercase hex digit (40_hexcodec.md R110). -/
def hexchar (n : BitVec 4) : Byte :=
  if n.toNat ≤ 9 then 0x30 + n.setWidth 8 else 0x61 + (n.setWidth 8 - 10)

/-- The digit a character stands for, none where it is invalid (40_hexcodec.md R111). -/
def hexDigit (upper : Bool) (c : Byte) : Option (BitVec 4) :=
  if 0x30 ≤ c ∧ c ≤ 0x39 then some ((c - 0x30).setWidth 4)
  else if 0x61 ≤ c ∧ c ≤ 0x66 then some ((c - 0x61 + 10).setWidth 4)
  else if upper ∧ 0x41 ≤ c ∧ c ≤ 0x46 then some ((c - 0x41 + 10).setWidth 4)
  else none

/-- `hexval(c)`: an invalid character fails silently to 0 (40_hexcodec.md R111). -/
def hexval (upper : Bool) (c : Byte) : BitVec 4 := (hexDigit upper c).getD 0

/-- `hexvalid(c)` (40_hexcodec.md R111). -/
def hexvalid (upper : Bool) (c : Byte) : Bool := (hexDigit upper c).isSome

/-- The two characters of a byte, high nibble first (20_memory.md R67). -/
def hexOfByte (b : Byte) : List Byte := [hexchar (b.extractLsb' 4 4), hexchar (b.extractLsb' 0 4)]

/-- The four characters of a 16-bit value, least-significant byte first (20_memory.md R67). -/
def hexOfHalf (v : Half) : List Byte := hexOfByte (v.extractLsb' 0 8) ++ hexOfByte (v.extractLsb' 8 8)

/-- The eight characters of a 32-bit value, least-significant byte first (20_memory.md R67). -/
def hexOfWord (v : Word) : List Byte := hexOfHalf (v.extractLsb' 0 16) ++ hexOfHalf (v.extractLsb' 16 16)

/-- The byte two characters stand for, high nibble first (40_hexcodec.md R116). -/
def byteOfHex (upper : Bool) (c0 c1 : Byte) : Byte := hexval upper c0 ++ hexval upper c1

/-- The 16-bit value four characters stand for, least-significant byte first (40_hexcodec.md R117). -/
def halfOfHex (upper : Bool) (c0 c1 c2 c3 : Byte) : Half := byteOfHex upper c2 c3 ++ byteOfHex upper c0 c1

/-- The bytes that pairs of characters stand for; a last character without a partner stands for none
(43_transaction.md R201). -/
def bytesOfHex (upper : Bool) (cs : List Byte) : List Byte :=
  match cs with
  | c0 :: c1 :: rest => byteOfHex upper c0 c1 :: bytesOfHex upper rest
  | _ => []

/-- The mask of invalid characters: bit `k` set where character `k` is invalid (40_hexcodec.md R116-R118). -/
def invalidMask (upper : Bool) (cs : List Byte) : Word :=
  match cs with
  | [] => 0
  | c :: rest => (invalidMask upper rest <<< 1) ||| (if hexvalid upper c then 0 else 1)

/-- A register holding up to four characters from the front of a list, 0 where there is none (20_memory.md R68). -/
def wordOfChars (cs : List Byte) : Word := lanes (cs.getD 0 0) (cs.getD 1 0) (cs.getD 2 0) (cs.getD 3 0)

end Sys2Proof.Machine
end

