-- ==== Sys2Proof/Machine/HexCodec.lean ====
section
/-! DEFINITION. The hex codec commands (40_hexcodec.md R112-R118). They read OPA, OPB and HEX_UPPER only, and write RESA,
RESB and STATUS.ERR only (R120). -/

namespace Sys2Proof.Machine

/-- HEXENC.B (40_hexcodec.md R112). -/
def execHexencB (s : State) : Host.Outcome State Fault Refusal :=
  .next (s.accept (wordOfChars (hexOfByte (opByte s))) 0)

/-- HEXENC.H (40_hexcodec.md R113). -/
def execHexencH (s : State) : Host.Outcome State Fault Refusal :=
  .next (s.accept (wordOfChars (hexOfHalf (opHalf s))) 0)

/-- HEXENC.W (40_hexcodec.md R114). -/
def execHexencW (s : State) : Host.Outcome State Fault Refusal :=
  let cs := hexOfWord (opWord s)
  .next (s.accept (wordOfChars (cs.take 4)) (wordOfChars (cs.drop 4)))

/-- HEXDIG (40_hexcodec.md R115). -/
def execHexdig (s : State) : Host.Outcome State Fault Refusal :=
  let c := opByte s
  .next (s.accept ((hexval s.cfg.hexUpper c).setWidth 32) (if hexvalid s.cfg.hexUpper c then 1 else 0))

/-- HEXDEC.B (40_hexcodec.md R116). -/
def execHexdecB (s : State) : Host.Outcome State Fault Refusal :=
  let up := s.cfg.hexUpper
  let c := opChar s
  .next (s.accept ((byteOfHex up (c 0) (c 1)).setWidth 32) (invalidMask up [c 0, c 1]))

/-- HEXDEC.H (40_hexcodec.md R117). -/
def execHexdecH (s : State) : Host.Outcome State Fault Refusal :=
  let up := s.cfg.hexUpper
  let c := opChar s
  .next (s.accept ((halfOfHex up (c 0) (c 1) (c 2) (c 3)).setWidth 32) (invalidMask up [c 0, c 1, c 2, c 3]))

/-- HEXDEC.W (40_hexcodec.md R118). -/
def execHexdecW (s : State) : Host.Outcome State Fault Refusal :=
  let up := s.cfg.hexUpper
  let c := opChar s
  .next (s.accept (halfOfHex up (c 4) (c 5) (c 6) (c 7) ++ halfOfHex up (c 0) (c 1) (c 2) (c 3))
    (invalidMask up [c 0, c 1, c 2, c 3, c 4, c 5, c 6, c 7]))

end Sys2Proof.Machine
end

