-- ==== Sys2Proof/Machine/Scale.lean ====
section
/-! DEFINITION. How a numeric value is scaled to the 16 bits a field carries (42_message.md R164, R165). `none` is the rules'
"out of range". -/

namespace Sys2Proof.Machine

/-- `u16(n)`, where it is defined (00_scope.md R7). -/
def u16 (n : Int) : Option Half :=
  if -32768 ≤ n ∧ n ≤ 32767 then some (BitVec.ofInt 16 n) else none

/-- `scale10i(x)` (42_message.md R164). -/
def scale10i (x : Int) : Option Half := u16 (10 * x)

/-- How many bits a product of a 24-bit significand by 10 has beyond 24. -/
def excessBits (p : Nat) : Nat :=
  if p < 2 ^ 24 then 0
  else if p < 2 ^ 25 then 1
  else if p < 2 ^ 26 then 2
  else if p < 2 ^ 27 then 3
  else 4

/-- `p` divided by `2^sh` and rounded to the nearest integer, ties to the even one (42_message.md R165). -/
def roundShift (p sh : Nat) : Nat :=
  let q := p / 2 ^ sh
  let r := p % 2 ^ sh
  if 2 * r < 2 ^ sh ∨ (2 * r = 2 ^ sh ∧ q % 2 = 0) then q else q + 1

/-- The magnitude of the binary32 product x·10 truncated to an integer, for the finite `x = m·2^(e-150)`: the product is
rounded to 24 significant bits first. No product of a subnormal needs fewer: ten times a multiple of the smallest
subnormal is a multiple of it. A product that would round to infinity is left as its huge magnitude, which `u16` calls out
of range as well. DEDUCED: log 17. -/
def scaledMagnitude (m e : Nat) : Nat :=
  let sh := excessBits (10 * m)
  let q := roundShift (10 * m) sh
  q * 2 ^ (e + sh) / 2 ^ 150

/-- `scale10f_ref(f)`: the spec's reference definition of SCALE10F (42_message.md R165). PRESUMED: log 5, log 18. -/
def scale10fReference (f : Word) : Option Half :=
  let ex := (f.extractLsb' 23 8).toNat
  let frac := (f.extractLsb' 0 23).toNat
  if ex = 255 then none
  else
    let m := if ex = 0 then frac else frac + 2 ^ 23
    let mag := scaledMagnitude m (max ex 1)
    u16 (if f.getLsbD 31 then -(mag : Int) else (mag : Int))

/-- SCALE10F of a configuration (00_scope.md R5, 42_message.md R165). -/
def scale10f (choice : Scale10F) (f : Word) : Option Half :=
  match choice with
  | .reference => scale10fReference f
  | .other k => Config.otherScale10f k f

end Sys2Proof.Machine
end

