-- ==== Sys2Proof/Machine/Message.lean ====
section
/-! DEFINITION. The message frame commands (42_message.md R160-R172). -/

namespace Sys2Proof.Machine

/-- `blk(n, v)`: the eight characters of a field, name first, each word least-significant byte first (42_message.md R162). -/
def fieldBlock (n v : Half) : List Byte := hexOfHalf n ++ hexOfHalf v

/-- The bytes already committed: MLEN div 2 (42_message.md R163). -/
def committedBytes (mlen : Word) : Word := BitVec.ofNat 32 (mlen.toNat / 2)

/-- A failed add: ERR, and RESA reports the bytes already committed; MSG and MLEN stay (42_message.md R163). -/
def State.refuseAdd (s : State) (e : ErrCode) : State :=
  { s.reject e with resa := committedBytes s.mlen, resb := 0 }

/-- A block appended at MSG[MLEN], MLEN moved past it (42_message.md R163). -/
def State.appendBlock (s : State) (b : List Byte) : State :=
  { s with mem := Memory.writeBytes s.mem (Buf.msg.addr s.mlen.toNat) b, mlen := s.mlen + 8 }

/-- `AddField`: the capacity guard first, then the range, then the append (42_message.md R163). The name is c0, c1, c2 of
OPB; `val` is the scaled value, none where it is out of range. -/
def addField (s : State) (val : Option Half) : State :=
  if s.mlen.toNat + Config.blockDigits > Config.frameDigits then s.refuseAdd .capacity
  else
    match val with
    | none => s.refuseAdd .range
    | some v =>
      let t := s.appendBlock (fieldBlock (packName (opName s 0) (opName s 1) (opName s 2)) v)
      t.accept (committedBytes t.mlen) 0

/-- MSGCLR (42_message.md R166). -/
def execMsgclr (s : State) : Host.Outcome State Fault Refusal :=
  .next ({ s with mem := Memory.clear s.mem Buf.msg.base Config.frameDigits, mlen := 0 }.accept 0 0)

/-- MSGADDI (42_message.md R167). -/
def execMsgaddi (s : State) : Host.Outcome State Fault Refusal :=
  .next (addField s (scale10i (opSigned s)))

/-- MSGADDF (42_message.md R168). -/
def execMsgaddf (s : State) : Host.Outcome State Fault Refusal :=
  .next (addField s (scale10f s.cfg.scale10f (opWord s)))

/-- MSGADDS (42_message.md R169): the string is packed as a name is, and not scaled. -/
def execMsgadds (s : State) : Host.Outcome State Fault Refusal :=
  .next (addField s (some (packName (opString s 0) (opString s 1) (opString s 2))))

/-- The name half of `blkdec` (42_message.md R172). -/
def blockName (upper : Bool) (d0 d1 d2 d3 : Byte) : Half := halfOfHex upper d0 d1 d2 d3

/-- The value half of `blkdec` (42_message.md R172). -/
def blockValue (upper : Bool) (d4 d5 d6 d7 : Byte) : Half := halfOfHex upper d4 d5 d6 d7

/-- The eight bytes of a DOUT record (10_state.md R33). -/
def recordBytes (n v : Half) : List Byte :=
  let u := unpackName n
  [u.s0, u.s1, u.s2, u.len, v.extractLsb' 0 8, v.extractLsb' 8 8, 0x00, 0x00]

/-- Record `j` of a decode: `DIN[8j..8j+7]` decoded (42_message.md R171). -/
def decodedRecord (s : State) (j : Nat) : List Byte :=
  let d := fun k => Memory.read s.mem (Buf.din.addr (8 * j + k))
  recordBytes (blockName s.cfg.hexUpper (d 0) (d 1) (d 2) (d 3)) (blockValue s.cfg.hexUpper (d 4) (d 5) (d 6) (d 7))

/-- MSGDEC's accepted effect (42_message.md R171): DOUT cleared, a record written for each whole block, DCNT and RESA the
count, RESB the length of the dropped tail. -/
def decodeMessage (s : State) : State :=
  let n := s.dlen.toNat / Config.blockDigits
  let cleared := Memory.clear s.mem Buf.dout.base (8 * s.cfg.doutCap)
  let records := (List.range n).flatMap (decodedRecord s)
  { s with
    mem := Memory.writeBytes cleared Buf.dout.base records
    dcnt := BitVec.ofNat 32 n }.accept (BitVec.ofNat 32 n) (BitVec.ofNat 32 (s.dlen.toNat % Config.blockDigits))

/-- MSGDEC (42_message.md R171). -/
def execMsgdec (s : State) : Host.Outcome State Fault Refusal :=
  if s.dlen.toNat > s.cfg.dinCap then .next (s.reject .arg) else .next (decodeMessage s)

end Sys2Proof.Machine
end

