-- ==== Sys2Proof/Machine/Transaction.lean ====
section
/-! DEFINITION. The transaction engine: TXEXEC's issue, the engine's iteration, and its finish (43_transaction.md R200-R210). -/

namespace Sys2Proof.Machine

/-- `units(mode, t)`: in binary mode each pair of hex characters is one unit, in AT mode each byte is (43_transaction.md R201). -/
def txUnits (upper mode : Bool) (t : List Byte) : List Byte := if mode then t else bytesOfHex upper t

/-- The checks of TXEXEC, in the order of 43_transaction.md R200 and 60_exceptions.md R253; all of them answer ARG. -/
def txArgumentsBad (s : State) : Bool :=
  if s.txlen.toNat > s.cfg.txCap then true
  else if !txcfgMode s.txcfg && s.txlen.toNat % 2 == 1 then true
  else max s.expect.toNat 1 > s.cfg.moffCap

/-- RX and MOFF cleared (43_transaction.md R200, 10_state.md R35, R36). -/
def clearResponse (cfg : Config) (m : Memory) : Memory :=
  Memory.clear (Memory.clear m Buf.rx.base cfg.rxCap) Buf.moff.base (2 * cfg.moffCap)

/-- TXEXEC's accepted effect (43_transaction.md R200, R202): the inputs captured, the response cleared, the channel opened
at BITRATE, the first deadline one clock sample plus TIMEOUT, BUSY set. -/
def startTransaction (s : State) : State :=
  let clock := s.clock.sample
  { s with
    eng :=
      { state := .run
        units := txUnits s.cfg.hexUpper (txcfgMode s.txcfg) (Memory.readBytes s.mem Buf.tx.base s.txlen.toNat)
        k := 0
        deadline := clock.last + s.timeout.toNat
        timeout := s.timeout.toNat
        expect := s.expect.toNat
        marker := txcfgMarker s.txcfg }
    mem := clearResponse s.cfg s.mem
    rxlen := 0, mcount := 0, txsent := 0
    chan := s.chan.openAt s.bitrate
    clock := clock
    status := setErr .ok (setBusy true (setTxres .none (setRxovf false s.status))) }

/-- TXEXEC (43_transaction.md R200). -/
def execTxexec (s : State) : Host.Outcome State Fault Refusal :=
  if txArgumentsBad s then .next (s.reject .arg) else .next (startTransaction s)

/-- The class of a finished transaction (43_transaction.md R210, R211). -/
def txResult (s : State) : TxRes :=
  if s.mcount.toNat ≥ s.eng.expect then .ok else if s.rxlen = 0 then .noresp else .reply

/-- `Finish()`: the channel closed, the result classified, the engine IDLE again (43_transaction.md R210). What the engine
captured at issue stays as it is: the rule writes ENG.state only. DEDUCED: log 14. -/
def finishTransaction (s : State) : State :=
  { s with
    chan := s.chan.close
    eng := { s.eng with state := .idle }
    status := setBusy false (setTxres (txResult s) s.status) }

/-- Part 1 of an iteration: one unit sent and the deadline reset, if one is left (43_transaction.md R204). -/
def sendPart (s : State) : State :=
  match s.eng.units[s.eng.k]? with
  | none => s
  | some u =>
    let clock := s.clock.sample
    { s with
      chan := s.chan.write u
      eng := { s.eng with k := s.eng.k + 1, deadline := clock.last + s.eng.timeout }
      txsent := BitVec.ofNat 32 (s.eng.k + 1)
      clock := clock }

/-- The two bytes of a marker offset, the low one at the lower address (10_state.md R36). -/
def offsetBytes (v : Word) : List Byte := [v.extractLsb' 0 8, v.extractLsb' 8 8]

/-- A marker received: its offset recorded, the count raised, the loop ended once the count reaches the expected one
(43_transaction.md R206, R208). -/
def receiveMarker (s : State) : State :=
  let t :=
    { s with
      mem := Memory.writeBytes s.mem (Buf.moff.addr (2 * s.mcount.toNat)) (offsetBytes s.rxlen)
      mcount := s.mcount + 1 }
  if t.mcount.toNat ≥ s.eng.expect then finishTransaction t else t

/-- Any other byte received: appended to RX, or discarded with RXOVF where RX is full (43_transaction.md R207). -/
def receiveData (s : State) (b : Byte) : State :=
  if s.rxlen.toNat < s.cfg.rxCap then
    { s with mem := Memory.write s.mem (Buf.rx.addr s.rxlen.toNat) b, rxlen := s.rxlen + 1 }
  else { s with status := setRxovf true s.status }

/-- Part 3 of an iteration: at most one inbound byte read (43_transaction.md R206, R207, R209). -/
def receivePart (s : State) : State :=
  match s.chan.read with
  | none => s
  | some (b, chan) =>
    if b = s.eng.marker then receiveMarker { s with chan := chan } else receiveData { s with chan := chan } b

/-- Parts 2 and 3: the deadline is checked against a sample of its own, strictly, before anything is read
(43_transaction.md R205, 60_exceptions.md R253). -/
def checkAndReceive (s : State) : State :=
  let t := { s with clock := s.clock.sample }
  if t.clock.last > t.eng.deadline then finishTransaction t else receivePart t

/-- `Iterate()`: send, then deadline, then receive, as one step (43_transaction.md R203). -/
def iterate (s : State) : State := checkAndReceive (sendPart s)

/-- The engine's step: an iteration while RUN; IDLE it has no enabled step and nothing happens (43_transaction.md R203,
70_reset_and_hazards.md R282). DESIGN CHOICE: log 1. -/
def engineStep (s : State) : State :=
  match s.eng.state with
  | .run => iterate s
  | .idle => s

end Sys2Proof.Machine
end

