-- ==== Sys2Proof/Machine/Dispatch.lean ====
section
/-! DEFINITION. The meaning of every command, one arm each (30_encoding.md R94). -/

namespace Sys2Proof.Machine

def exec (i : Instr) (s : State) : Host.Outcome State Fault Refusal :=
  match i with
  | .hexencB => Sys2Proof.Machine.execHexencB s
  | .hexencH => Sys2Proof.Machine.execHexencH s
  | .hexencW => Sys2Proof.Machine.execHexencW s
  | .hexdig => Sys2Proof.Machine.execHexdig s
  | .hexdecB => Sys2Proof.Machine.execHexdecB s
  | .hexdecH => Sys2Proof.Machine.execHexdecH s
  | .hexdecW => Sys2Proof.Machine.execHexdecW s
  | .letenc => Sys2Proof.Machine.execLetenc s
  | .letdec => Sys2Proof.Machine.execLetdec s
  | .namepack => Sys2Proof.Machine.execNamepack s
  | .nameunpk => Sys2Proof.Machine.execNameunpk s
  | .msgclr => Sys2Proof.Machine.execMsgclr s
  | .msgaddi => Sys2Proof.Machine.execMsgaddi s
  | .msgaddf => Sys2Proof.Machine.execMsgaddf s
  | .msgadds => Sys2Proof.Machine.execMsgadds s
  | .msgdec => Sys2Proof.Machine.execMsgdec s
  | .txexec => Sys2Proof.Machine.execTxexec s

end Sys2Proof.Machine
end

