-- ==== Sys2Proof/Machine/Bus.lean ====
section
/-! DEFINITION. The host's bus accesses, the issue of a command word, the reset input, and the choice of the next event
(20_memory.md R61-R65, 30_encoding.md R91, 70_reset_and_hazards.md R280-R286). -/

namespace Sys2Proof.Machine

/-- `Issue(v)`: a command word written to CMD (30_encoding.md R91; the order of the checks is 60_exceptions.md R253). -/
def issue (w : Word) (s : State) : Host.Outcome State Fault Refusal :=
  if statusBusy s.status then .fault .cmdWhileBusy
  else
    match decode w with
    | .error _ => .next (s.reject .illegal)
    | .ok i => exec i s

/-- What a host read returns, none where the access is a bus error (20_memory.md R61-R63). -/
def readValue (s : State) (width : Nat) (addr : HostAddr) : Option Word :=
  if width = 32 then (regAt addr).map (readReg s)
  else if width = 8 then (bufAt s.cfg addr.toNat).map (fun _ => (Memory.read s.mem addr.toNat).setWidth 32)
  else none

/-- A host read: the answer, and no other effect (20_memory.md R65); a bus error sets BERR and answers 0 of the access
width (R64). DEDUCED: log 19. -/
def hostRead (s : State) (width : Nat) (addr : HostAddr) : State :=
  match readValue s width addr with
  | some v => { s with reply := some { width := width, data := v } }
  | none => { s.busError with reply := some { width := width, data := 0 } }

/-- A host write to the register window: CMD issues a command, a writable register stores, any other is a bus error
(20_memory.md R61). -/
def hostRegWrite (s : State) (r : Reg) (v : Word) : Host.Outcome State Fault Refusal :=
  match r.access with
  | .w => issue v s
  | .rw => .next (writeReg s r v)
  | .r => .next s.busError

/-- A host write to a buffer: DIN and TX store the byte, any other is a bus error (20_memory.md R62). -/
def hostBufWrite (s : State) (b : Buf) (a : Nat) (v : Byte) : State :=
  if b.hostWritable then { s with mem := Memory.write s.mem a v } else s.busError

/-- A host write (20_memory.md R61-R63). -/
def hostWrite (s : State) (width : Nat) (addr : HostAddr) (v : Word) : Host.Outcome State Fault Refusal :=
  if width = 32 then
    match regAt addr with
    | some r => hostRegWrite s r v
    | none => .next s.busError
  else if width = 8 then
    match bufAt s.cfg addr.toNat with
    | some b => .next (hostBufWrite s b addr.toNat (v.extractLsb' 0 8))
    | none => .next s.busError
  else .next s.busError

/-- One host access (20_memory.md R61-R66). -/
def hostAccess (s : State) (a : HostAccess) : Host.Outcome State Fault Refusal :=
  match a with
  | .read width addr => .next (hostRead s width addr)
  | .write width addr v => hostWrite s width addr v

/-- The reset input: `chan_close()` first where a transaction runs, then every register, buffer and engine state at its
reset value (70_reset_and_hazards.md R280, R281). The configuration and what lies outside the block (the clock, the
channel's record, the events to come, the last answer) are no state of the block. DEDUCED: log 11. -/
def resetBlock (s : State) : State :=
  { State.reset with
    cfg := s.cfg
    chan := if s.eng.state = .run then s.chan.close else s.chan
    clock := s.clock
    agenda := s.agenda
    reply := s.reply }

/-- One event (20_memory.md R70). -/
def performEvent (e : Event) (s : State) : Host.Outcome State Fault Refusal :=
  match e with
  | .host a => hostAccess s a
  | .engine => .next (engineStep s)
  | .deliver b => .next { s with chan := s.chan.deliver b }
  | .reset => .next (resetBlock s)

/-- The next event: the head of the agenda; with the agenda empty only the block itself moves, so the engine iterates while
RUN and otherwise waits (70_reset_and_hazards.md R282, 60_exceptions.md R261). DESIGN CHOICE: log 1. -/
def nextEvent (s : State) : Host.Outcome State Fault Refusal :=
  match s.agenda with
  | [] => performEvent .engine s
  | e :: rest => performEvent e { s with agenda := rest }

/-- The host's write of a command word to CMD (30_encoding.md R97 `cmd`). -/
def cmdWrite (w : Word) : Event := .host (.write 32 Reg.cmd.addr w)

end Sys2Proof.Machine
end

