-- ==== Sys2Proof/Machine/Step.lean ====
section
/-! DEFINITION. One step of the machine, and how a command word is placed where the next step takes it. -/

namespace Sys2Proof.Machine

/-- One step: the next event of the machine (20_memory.md R70). -/
def step (s : State) : Host.Outcome State Fault Refusal := nextEvent s

/-- The state whose very next event is the host's write of a command word to CMD. The CTE fetches no instructions
(10_state.md R38): a command comes from the host (log 2), so this puts that bus access at the head of the agenda and
changes nothing else. -/
def State.withFetchWord (s : State) (nbits w : Nat) : State :=
  { s with agenda := cmdWrite (tableWord nbits w) :: s.agenda }

end Sys2Proof.Machine
end

