-- ==== Sys2Proof/Machine/Render.lean ====
section
/-! DEFINITION. The host-side functions that the spec makes normative and the block does not run: the encoded message read
back (42_message.md R170), a field's number (R161), the decimal text (R173) and the decoded text (R174). Text is a list of
ASCII bytes. DESIGN CHOICE: log 20. -/

namespace Sys2Proof.Machine

/-- `encode()`: the host's read of MSG[0..MLEN-1] (42_message.md R170). -/
def encodedMessage (s : State) : List Byte := Memory.readBytes s.mem Buf.msg.base s.mlen.toNat

/-- `s16(v)`: the number of tenths a value stands for (00_scope.md R7, 42_message.md R161). -/
def tenths (v : Half) : Int := v.toInt

/-- Decimal digits, most significant first, with at most `fuel` of them. -/
def decDigits (fuel k : Nat) : List Byte :=
  match fuel with
  | 0 => []
  | f + 1 => if k < 10 then [0x30 + BitVec.ofNat 8 k] else decDigits f (k / 10) ++ [0x30 + BitVec.ofNat 8 (k % 10)]

/-- `dec(k)`: no leading zeros, and "0" for 0 (42_message.md R173). -/
def dec (k : Nat) : List Byte := decDigits (k + 1) k

/-- `render(s)`: the sign once, then the magnitude with exactly one fractional digit (42_message.md R173). -/
def render (n : Int) : List Byte :=
  (if n < 0 then [0x2D] else []) ++ dec (n.natAbs / 10) ++ [0x2E] ++ dec (n.natAbs % 10)

/-- Byte `i` of DOUT record `j` (10_state.md R33). -/
def doutByte (s : State) (j i : Nat) : Byte := Memory.read s.mem (Buf.dout.addr (8 * j + i))

/-- The value of DOUT record `j`: bytes 4 and 5, little-endian (10_state.md R33). -/
def doutValue (s : State) (j : Nat) : Half := doutByte s j 5 ++ doutByte s j 4

/-- The name of DOUT record `j`: its first `len` slots (42_message.md R174). -/
def doutName (s : State) (j : Nat) : List Byte := (List.range (doutByte s j 3).toNat).map (doutByte s j)

/-- One entry of the decoded text: the quoted name, a colon, the number (42_message.md R174). -/
def entryText (s : State) (j : Nat) : List Byte :=
  [0x22] ++ doutName s j ++ [0x22, 0x3A] ++ render (tenths (doutValue s j))

/-- The decoded textual form: the entries of records 0..DCNT-1 in order, between braces and separated by commas
(42_message.md R174). -/
def decodedText (s : State) : List Byte :=
  [0x7B] ++ List.intercalate [0x2C] ((List.range s.dcnt.toNat).map (entryText s)) ++ [0x7D]

end Sys2Proof.Machine
end

