-- ==== Sys2Proof/Machine/Script.lean ====
section
/-! DEFINITION. The host script notation: the bus accesses each line stands for (30_encoding.md R96, R97). It describes the
host, not the block. DESIGN CHOICE: log 20. -/

namespace Sys2Proof.Machine

/-- One line of a host script (30_encoding.md R96, R97). -/
inductive ScriptLine where
  | wr (r : Reg) (v : Word)
  | rd (r : Reg)
  | wb (b : Buf) (i : Nat) (v : Byte)
  | rb (b : Buf) (i : Nat)
  | cmd (i : Instr)
  | wrc (r : Reg) (cs : List Byte)
  | ws (b : Buf) (i : Nat) (cs : List Byte)
  | rs (b : Buf) (i n : Nat)
  /-- `poll` that ends at its `n`-th read of STATUS: how many there are depends on the run -/
  | poll (n : Nat)
  /-- `chan> b0 b1 ...`: the channel's deliveries, no host access -/
  | chan (bs : List Byte)
  deriving DecidableEq, Repr

/-- `W32` of a register. -/
def write32 (r : Reg) (v : Word) : Event := .host (.write 32 r.addr v)

/-- `R32` of a register. -/
def read32 (r : Reg) : Event := .host (.read 32 r.addr)

/-- `W8` of a buffer byte. -/
def write8 (b : Buf) (i : Nat) (v : Byte) : Event := .host (.write 8 (BitVec.ofNat 12 (b.addr i)) (v.setWidth 32))

/-- `R8` of a buffer byte. -/
def read8 (b : Buf) (i : Nat) : Event := .host (.read 8 (BitVec.ofNat 12 (b.addr i)))

/-- The register value of up to four characters: `s[0] + s[1]·2^8 + ...`, missing ones 0 (30_encoding.md R97). -/
def charsWord (cs : List Byte) : Word :=
  BitVec.ofNat 32 ((cs.getD 0 0).toNat + (cs.getD 1 0).toNat * 2 ^ 8 + (cs.getD 2 0).toNat * 2 ^ 16 + (cs.getD 3 0).toNat * 2 ^ 24)

/-- The events a line stands for (30_encoding.md R96, R97). -/
def ScriptLine.expand (l : ScriptLine) : List Event :=
  match l with
  | .wr r v => [write32 r v]
  | .rd r => [read32 r]
  | .wb b i v => [write8 b i v]
  | .rb b i => [read8 b i]
  | .cmd i => [cmdWrite (encode i)]
  | .wrc r cs => [write32 r (charsWord cs)]
  | .ws b i cs => cs.mapIdx (fun j c => write8 b (i + j) c)
  | .rs b i n => (List.range n).map (fun j => read8 b (i + j))
  | .poll n => List.replicate n (read32 .status)
  | .chan bs => bs.map Event.deliver

/-- Whether `poll` stops at an answer: bit 0 of the value read is 0 (30_encoding.md R97). -/
def pollStops (r : BusReply) : Bool := !(r.data.getLsbD 0)

end Sys2Proof.Machine
end

