-- ==== Sys2Proof/Safety.lean ====
section
/-! DEFINITION. The terms the claims are stated in: what a command may change (frames), what every reachable state
satisfies (the invariant), what the host must not do, and the reference arithmetic the rules name. -/

namespace Sys2Proof.Machine

/-! ## Frames: what is left unchanged -/

/-- STATUS after a command: ERR is the code, every other bit as before (10_state.md R39, 60_exceptions.md R250). -/
def errWritten (e : BitVec 4) (before after : Word) : Prop :=
  after.extractLsb' 4 4 = e ∧ ∀ k, k < 4 ∨ 8 ≤ k → after.getLsbD k = before.getLsbD k

/-- What no command ever writes: the registers the host owns, the configuration, and the environment's own fields
(10_state.md R23, R26-R29). -/
structure HostSideKept (s t : State) : Prop where
  cfg : t.cfg = s.cfg
  opa : t.opa = s.opa
  opb : t.opb = s.opb
  dlen : t.dlen = s.dlen
  txlen : t.txlen = s.txlen
  timeout : t.timeout = s.timeout
  expect : t.expect = s.expect
  txcfg : t.txcfg = s.txcfg
  bitrate : t.bitrate = s.bitrate
  agenda : t.agenda = s.agenda
  reply : t.reply = s.reply

/-- What no codec command writes: the engine, its registers, the channel and the clock (20_memory.md R75). -/
structure EngineKept (s t : State) : Prop where
  rxlen : t.rxlen = s.rxlen
  mcount : t.mcount = s.mcount
  txsent : t.txsent = s.txsent
  eng : t.eng = s.eng
  chan : t.chan = s.chan
  clock : t.clock = s.clock

/-- Every byte of the buffers outside a range of addresses is unchanged. -/
def bytesKeptOutside (lo n : Nat) (s t : State) : Prop :=
  ∀ a, a < lo ∨ lo + n ≤ a → Memory.read t.mem a = Memory.read s.mem a

/-- Every byte of the buffers is unchanged. -/
def bytesKept (s t : State) : Prop := ∀ a, Memory.read t.mem a = Memory.read s.mem a

/-- The command of an opcode word, whose only effect is RESA, RESB and ERR = OK: in every state it completes with these
results, and nothing else changes (40_hexcodec.md R120). -/
def resultCommand (w : Word) (i : Instr) (ra rb : State → Word) : Prop :=
  decode w = .ok i ∧ ∀ s : State, ∃ t, exec i s = .next t ∧ t.resa = ra s ∧ t.resb = rb s
    ∧ errWritten 0 s.status t.status
    ∧ HostSideKept s t ∧ EngineKept s t ∧ t.mlen = s.mlen ∧ t.dcnt = s.dcnt ∧ bytesKept s t

/-- A command turned away with ERR alone (60_exceptions.md R254). -/
def rejectedWith (e : BitVec 4) (s : State) (o : Host.Outcome State Fault Refusal) : Prop :=
  ∃ t, o = .next t ∧ errWritten e s.status t.status ∧ HostSideKept s t ∧ EngineKept s t
    ∧ t.resa = s.resa ∧ t.resb = s.resb ∧ t.mlen = s.mlen ∧ t.dcnt = s.dcnt ∧ bytesKept s t

/-- An add turned away: ERR, RESA the bytes already committed, RESB 0, the message unchanged (42_message.md R163). -/
def addRefusedWith (e : BitVec 4) (s : State) (o : Host.Outcome State Fault Refusal) : Prop :=
  ∃ t, o = .next t ∧ errWritten e s.status t.status ∧ HostSideKept s t ∧ EngineKept s t
    ∧ t.resa.toNat = s.mlen.toNat / 2 ∧ t.resb = 0 ∧ t.mlen = s.mlen ∧ t.dcnt = s.dcnt ∧ bytesKept s t

/-- `blk(n, v)` written character by character, as 42_message.md R162 does. -/
def blockChars (n v : Half) : List Byte :=
  [hexchar (n.extractLsb' 4 4), hexchar (n.extractLsb' 0 4), hexchar (n.extractLsb' 12 4), hexchar (n.extractLsb' 8 4),
   hexchar (v.extractLsb' 4 4), hexchar (v.extractLsb' 0 4), hexchar (v.extractLsb' 12 4), hexchar (v.extractLsb' 8 4)]

/-- An add that appends the block of value `v` under the name in OPB: the eight characters at MSG[MLEN..MLEN+7], MLEN
raised by 8, RESA the bytes committed, ERR = OK, and nothing else changes (42_message.md R163). -/
def addAppends (v : Half) (s : State) (o : Host.Outcome State Fault Refusal) : Prop :=
  ∃ t, o = .next t
    ∧ (∀ j < 8, Memory.read t.mem (0x100 + s.mlen.toNat + j)
        = (blockChars (packName (lane s.opb 0) (lane s.opb 1) (lane s.opb 2)) v).getD j 0)
    ∧ bytesKeptOutside (0x100 + s.mlen.toNat) 8 s t
    ∧ t.mlen.toNat = s.mlen.toNat + 8 ∧ t.resa.toNat = (s.mlen.toNat + 8) / 2 ∧ t.resb = 0
    ∧ errWritten 0 s.status t.status ∧ HostSideKept s t ∧ EngineKept s t ∧ t.dcnt = s.dcnt

/-! ## The invariant of every reachable state -/

/-- ENG.state is RUN. -/
abbrev State.running (s : State) : Prop := s.eng.state = .run

/-- MOFF[m]: two bytes, little-endian (10_state.md R36). -/
def markerOffset (s : State) (m : Nat) : Nat :=
  (Memory.read s.mem (0xA00 + 2 * m)).toNat + 256 * (Memory.read s.mem (0xA00 + 2 * m + 1)).toNat

/-- The buffers' memory is in its canonical form and lists implemented addresses only (20_memory.md R60). -/
def memoryInv (s : State) : Prop :=
  Memory.wf s.mem ∧ ∀ c ∈ s.mem, (bufAt s.cfg c.1).isSome

/-- STATUS holds legal values: reserved bits 0, ERR at most 4, BUSY exactly while RUN, TXRES NONE while RUN; TXCFG's
reserved bits are 0 (10_state.md R21, R29, R37, 60_exceptions.md R250). -/
def statusInv (s : State) : Prop :=
  s.status.getLsbD 3 = false ∧ s.status.extractLsb' 10 22 = 0#22 ∧ (statusErr s.status).toNat ≤ 4
    ∧ (statusBusy s.status = true ↔ s.running) ∧ (s.running → statusTxres s.status = 0)
    ∧ s.txcfg &&& ~~~0x0000FF01 = 0

/-- The message frame: MLEN is 0, 8, 16 or 24, MSG holds MLEN/8 blocks whose names have bit 15 clear, and the rest of MSG
is 0x00 (42_message.md R160). -/
def frameInv (s : State) : Prop :=
  (s.mlen = 0 ∨ s.mlen = 8 ∨ s.mlen = 16 ∨ s.mlen = 24)
    ∧ (∀ j, 8 * j < s.mlen.toNat → ∃ n v : Half, n.getLsbD 15 = false
        ∧ Memory.readBytes s.mem (0x100 + 8 * j) 8 = blockChars n v)
    ∧ ∀ j, s.mlen.toNat ≤ j → j < 24 → Memory.read s.mem (0x100 + j) = 0

/-- The decode output: DCNT records at most DOUT_CAP, and 0x00 beyond them (10_state.md R26, R33, D48). -/
def decodeInv (s : State) : Prop :=
  s.dcnt.toNat ≤ s.cfg.doutCap
    ∧ ∀ j, 8 * s.dcnt.toNat ≤ j → j < 8 * s.cfg.doutCap → Memory.read s.mem (0x400 + j) = 0

/-- The channel is open exactly while RUN, holds no inbound byte while closed, and has been handed exactly the units sent
(60_exceptions.md R258). -/
def channelInv (s : State) : Prop :=
  (s.chan.isOpen = true ↔ s.running) ∧ (s.chan.isOpen = false → s.chan.inbound = [])
    ∧ (s.running → s.chan.outbound = s.eng.units.take s.eng.k)

/-- The response: RXLEN within RX_CAP, no marker byte stored, 0x00 beyond RXLEN; MCOUNT within MOFF_CAP and within
max(ENG.expect, 1), offsets rising and at most RXLEN, 0 beyond MCOUNT (10_state.md R35, R36, 43_transaction.md R206, R214). -/
def responseInv (s : State) : Prop :=
  s.rxlen.toNat ≤ s.cfg.rxCap
    ∧ (∀ j < s.rxlen.toNat, Memory.read s.mem (0x800 + j) ≠ s.eng.marker)
    ∧ (∀ j, s.rxlen.toNat ≤ j → j < s.cfg.rxCap → Memory.read s.mem (0x800 + j) = 0)
    ∧ s.mcount.toNat ≤ s.cfg.moffCap
    ∧ s.mcount.toNat ≤ max s.eng.expect 1
    ∧ (∀ m, m + 1 < s.mcount.toNat → markerOffset s m ≤ markerOffset s (m + 1))
    ∧ (∀ m < s.mcount.toNat, markerOffset s m ≤ s.rxlen.toNat)
    ∧ (∀ j, 2 * s.mcount.toNat ≤ j → j < 2 * s.cfg.moffCap → Memory.read s.mem (0xA00 + j) = 0)

/-- The engine: TXSENT equals ENG.k, at most the units there are, at most TX_CAP of them; while RUN the next marker still
fits MOFF and the deadline lies at most TIMEOUT ahead (10_state.md R37, 43_transaction.md R200, R208, R214). -/
def engineInv (s : State) : Prop :=
  s.txsent.toNat = s.eng.k ∧ s.eng.k ≤ s.eng.units.length ∧ s.eng.units.length ≤ s.cfg.txCap
    ∧ (s.running → s.mcount.toNat < max s.eng.expect 1 ∧ max s.eng.expect 1 ≤ s.cfg.moffCap)
    ∧ (s.running → s.eng.deadline ≤ s.clock.last + s.eng.timeout)

/-- TXRES tells the result of the last finished transaction (43_transaction.md R211). -/
def resultInv (s : State) : Prop :=
  (statusTxres s.status = 1 → s.eng.expect ≤ s.mcount.toNat)
    ∧ (statusTxres s.status = 2 → s.mcount.toNat < s.eng.expect ∧ s.rxlen = 0)
    ∧ (statusTxres s.status = 3 → s.mcount.toNat < s.eng.expect ∧ s.rxlen ≠ 0)

/-- What holds of every state that a legal machine reaches. -/
structure State.Inv (s : State) : Prop where
  legal : s.cfg.legal = true
  memory : memoryInv s
  status : statusInv s
  frame : frameInv s
  decode : decodeInv s
  channel : channelInv s
  response : responseInv s
  engine : engineInv s
  result : resultInv s

/-! ## What the host must not do -/

/-- The event is a write of CMD (20_memory.md R61). -/
def Event.writesCmd (e : Event) : Prop := ∃ w, e = .host (.write 32 0x000 w)

/-- The event is a write of a register that stores it. -/
def Event.writesReg (e : Event) (r : Reg) : Prop := ∃ w, e = .host (.write 32 r.addr w)

/-- The next event breaks the host's duty: a CMD write while BUSY (70_reset_and_hazards.md R285). -/
def State.breaksDuty (s : State) : Prop :=
  statusBusy s.status = true ∧ ∃ w rest, s.agenda = .host (.write 32 0x000 w) :: rest

/-- The next step is the engine's and leaves `rest` on the agenda: an engine event stands at its head, or it is empty and the
host and the channel stay silent (log 1). -/
def State.engineTurn (s : State) (rest : List Event) : Prop :=
  s.agenda = .engine :: rest ∨ (s.agenda = [] ∧ rest = [])

/-! ## Accesses -/

/-- The eight host-writable registers (10_state.md R20). -/
def hostOwned : List Reg := [.opa, .opb, .dlen, .txlen, .timeout, .expect, .txcfg, .bitrate]

/-- A host access that some rule admits: a 32-bit access at a register the host may so access, or an 8-bit access at an
implemented byte of a buffer the host may so access (20_memory.md R61, R62). Every other is a bus error (R63). -/
def HostAccess.admitted (cfg : Config) (a : HostAccess) : Prop :=
  match a with
  | .read width addr =>
    (width = 32 ∧ addr.toNat % 4 = 0 ∧ addr.toNat ≤ 0x43)
      ∨ (width = 8 ∧ ∃ b : Buf, b.base ≤ addr.toNat ∧ addr.toNat < b.base + b.size cfg)
  | .write width addr _ =>
    (width = 32 ∧ (addr = 0x000 ∨ ∃ r ∈ hostOwned, addr = r.addr))
      ∨ (width = 8 ∧ ∃ b : Buf, (b = .din ∨ b = .tx) ∧ b.base ≤ addr.toNat ∧ addr.toNat < b.base + b.size cfg)

/-- BERR set, every other bit of STATUS as before (20_memory.md R64). -/
def berrWritten (before after : Word) : Prop :=
  after.getLsbD 1 = true ∧ ∀ k, k ≠ 1 → after.getLsbD k = before.getLsbD k

/-! ## Reference arithmetic -/

/-- A natural number that binary32 represents exactly, counted in units of its smallest subnormal 2^-149 and with no upper
bound on the exponent. -/
def binary32Grid (n : Nat) : Prop := ∃ a k, a < 2 ^ 24 ∧ n = a * 2 ^ k

/-- The significand of such a number is even. -/
def evenSignificand (n : Nat) : Prop := ∃ a k, a < 2 ^ 24 ∧ (2 ^ 23 ≤ a ∨ k = 0) ∧ n = a * 2 ^ k ∧ a % 2 = 0

/-- `p` is `x` rounded to the nearest number of the grid, ties to the even significand. -/
def roundsToNearestEven (x p : Nat) : Prop :=
  binary32Grid p
    ∧ (∀ q, binary32Grid q → Nat.dist p x ≤ Nat.dist q x)
    ∧ (∀ q, binary32Grid q → q ≠ p → Nat.dist q x = Nat.dist p x → evenSignificand p)

/-! ## Messages built and decoded -/

/-- One add command with its operands. -/
structure AddStep where
  instr : Instr
  opa : Word
  opb : Word
  deriving DecidableEq, Repr

/-- The 16-bit value an add stores, none where it is out of range (42_message.md R164, R165, R169). -/
def AddStep.value (cfg : Config) (a : AddStep) : Option Half :=
  match a.instr with
  | .msgaddi => scale10i a.opa.toInt
  | .msgaddf => scale10f cfg.scale10f a.opa
  | .msgadds => some (packName (lane a.opa 0) (lane a.opa 1) (lane a.opa 2))
  | _ => none

/-- The operands written by the host, then the command. -/
def AddStep.run (a : AddStep) (s : State) : Host.Outcome State Fault Refusal :=
  exec a.instr { s with opa := a.opa, opb := a.opb }

/-- Several adds in order. -/
def runAdds (s : State) (as : List AddStep) : Host.Outcome State Fault Refusal :=
  match as with
  | [] => .next s
  | a :: rest =>
    match a.run s with
    | .next t => runAdds t rest
    | .fault r => .fault r
    | .refused r => .refused r

/-- The host's copy of the message into DIN, with DLEN its length (42_message.md R175). -/
def copyToDin (s : State) : State :=
  { s with mem := Memory.writeBytes s.mem 0x200 (encodedMessage s), dlen := s.mlen }

/-- A character in lower case, as a name slot keeps it: 0x00 where it is unencodable (41_fieldname.md R148). -/
def slotOf (c : Byte) : Byte :=
  if 0x61 ≤ c ∧ c ≤ 0x7A then c
  else if 0x41 ≤ c ∧ c ≤ 0x5A then c + 0x20
  else if 0x30 ≤ c ∧ c ≤ 0x34 then c
  else 0x00

end Sys2Proof.Machine
end

