-- ==== Sys2Proof/Certificates/Slice0/Obligations.lean ====
section
/-! DEFINITION. The statements about the CTE, from the numbered rules of spec/. -/

open Sys2Proof Sys2Proof.Machine

/-! ## Encoding -/

/-- Words written out from the opcode map (30_encoding.md R94) decode to the commands they stand for. -/
def Obligations.DecodesWrittenWords : Prop :=
  decode 0b00000000000000000000000000000001#32 = .ok .hexencB
    ∧ decode 0b00000000000000000000000000000111#32 = .ok .hexdecW
    ∧ decode 0b00000000000000000000000000010010#32 = .ok .namepack
    ∧ decode 0b00000000000000000000000000100001#32 = .ok .msgaddi
    ∧ decode 0b00000000000000000000000000110000#32 = .ok .txexec

/-- The decoder accepts the words of the opcode map and no other, and those are the well-formed ones (30_encoding.md R94,
R95). -/
def Obligations.DecodesExactlyTheOpcodeMap : Prop :=
  (∀ (w : Word) (i : Instr), decode w = .ok i ↔ w = encode i)
    ∧ ∀ w : Word, (∃ i, decode w = .ok i) ↔ CommandWord.wellFormed w = true

/-- An illegal word is rejected with ERR = ILLEGAL and changes nothing else (30_encoding.md R95). -/
def Obligations.IllegalWordWritesOnlyErr : Prop :=
  ∀ (s : State) (w : Word), statusBusy s.status = false →
    (w.extractLsb' 8 24 ≠ 0#24
      ∨ (let opc := (w.extractLsb' 0 8).toNat
         opc = 0x00 ∨ (0x08 ≤ opc ∧ opc ≤ 0x0F) ∨ (0x14 ≤ opc ∧ opc ≤ 0x1F) ∨ (0x25 ≤ opc ∧ opc ≤ 0x2F) ∨ 0x31 ≤ opc)) →
    rejectedWith 1 s (issue w s)

/-! ## The step -/

/-- A step whose event is the host's write of a command word to CMD runs exactly the decoded command, on the state with
that event taken off the agenda, when no transaction runs (30_encoding.md R91). -/
def Obligations.StepRunsTheDecodedCommand : Prop :=
  ∀ (s : State) (w : Word) (i : Instr) (rest : List Event),
    s.agenda = .host (.write 32 0x000 w) :: rest → statusBusy s.status = false → decode w = .ok i →
    step s = exec i { s with agenda := rest }

/-- A step faults exactly where the host writes CMD while BUSY = 1, and never refuses (70_reset_and_hazards.md R286). -/
def Obligations.FaultsExactlyOnCmdWhileBusy : Prop :=
  (∀ s : State, (∃ f, step s = .fault f) ↔ s.breaksDuty) ∧ ∀ (s : State) (r : Refusal), step s ≠ .refused r

/-- Every legal state goes to a legal state: the invariant `State.Inv` is kept by every step. Three of its clauses speak of
the model's own choices: the canonical form of memory (log 7), the record of the units handed to the channel (log 9), and
what an IDLE engine still holds of its marker and its expected count (log 14), on which the clauses that RX holds no marker,
that MCOUNT is at most max(expect, 1) and that TXRES tells the result rest after Finish. -/
def Obligations.StepKeepsTheInvariant : Prop :=
  ∀ s t : State, s.Inv → step s = .next t → t.Inv

/-- The state after reset meets the invariant. The default configuration in it is the model's choice (log 4), and so are the
closed and empty channel (log 9) and the canonical form of memory (log 7). -/
def Obligations.ResetMeetsTheInvariant : Prop := State.reset.Inv

/-- From any state whose memory is canonical, whatever else it holds, a step leaves it canonical. -/
def Obligations.StepKeepsMemoryCanonical : Prop :=
  ∀ s t : State, Memory.wf s.mem → step s = .next t → Memory.wf t.mem

/-- BERR is sticky: only reset clears it (10_state.md R21). -/
def Obligations.BusErrorFlagFallsOnlyAtReset : Prop :=
  ∀ s t : State, step s = .next t → statusBerr s.status = true →
    statusBerr t.status = true ∨ ∃ rest, s.agenda = .reset :: rest

/-- A register the host owns changes only by a host write of that register or by reset: the block never writes it
(10_state.md R23, R26-R29). -/
def Obligations.BlockNeverWritesHostRegisters : Prop :=
  ∀ (s t : State) (r : Reg), r ∈ hostOwned → step s = .next t → readReg t r ≠ readReg s r →
    ∃ e rest, s.agenda = e :: rest ∧ (e = .reset ∨ e.writesReg r)

/-- No step sets the clock back, and none changes the configuration (60_exceptions.md R256). -/
def Obligations.ClockNeverRunsBackwards : Prop :=
  ∀ s t : State, step s = .next t → s.clock.last ≤ t.clock.last ∧ t.cfg = s.cfg

/-- While a transaction runs, no host access and no delivery ends it or alters the engine (70_reset_and_hazards.md R281,
R285). -/
def Obligations.OnlyTheEngineOrResetEndsATransaction : Prop :=
  ∀ (s t : State) (e : Event) (rest : List Event), statusBusy s.status = true → s.agenda = e :: rest →
    e ≠ .engine → e ≠ .reset → step s = .next t →
    t.eng = s.eng ∧ statusBusy t.status = true ∧ t.chan.isOpen = s.chan.isOpen ∧ t.clock = s.clock

/-- With nothing on the agenda an IDLE machine waits, unchanged (70_reset_and_hazards.md R282); that an empty agenda means
waiting is the model's choice, log 1. -/
def Obligations.IdleMachineWaits : Prop :=
  ∀ s : State, s.agenda = [] → s.eng.state = .idle → step s = .next s

/-- An open channel takes any delivered byte at the end of its FIFO, and nothing else changes; a closed one takes none
(60_exceptions.md R258); that a delivery to a closed channel is a step without effect is the model's choice, log 1. -/
def Obligations.DeliveryAppendsToTheOpenChannel : Prop :=
  ∀ (s : State) (b : Byte) (rest : List Event), s.agenda = .deliver b :: rest →
    step s = .next { s with
      agenda := rest
      chan := { s.chan with inbound := if s.chan.isOpen then s.chan.inbound ++ [b] else s.chan.inbound } }

/-- Reset sets every register to 0, every buffer byte to 0x00 and the engine to its reset values, and closes the channel of
a running transaction (70_reset_and_hazards.md R280, R281). -/
def Obligations.ResetClearsTheBlock : Prop :=
  ∀ (s : State) (rest : List Event), s.agenda = .reset :: rest → ∃ t, step s = .next t
    ∧ (∀ r : Reg, readReg t r = 0)
    ∧ (∀ a, Memory.read t.mem a = 0x00)
    ∧ t.eng = { state := .idle, units := [], k := 0, deadline := 0, timeout := 0, expect := 0, marker := 0x00 }
    ∧ (s.eng.state = .run → t.chan.isOpen = false ∧ t.chan.inbound = [])

/-- Reset leaves what is no state of the block: the configuration, the clock, the channel of an idle engine, the events to
come and the last answer. That these stay is the model's choice, log 11 (70_reset_and_hazards.md R280 names none of them). -/
def Obligations.ResetLeavesTheEnvironment : Prop :=
  ∀ (s : State) (rest : List Event), s.agenda = .reset :: rest → ∃ t, step s = .next t
    ∧ (s.eng.state = .idle → t.chan = s.chan)
    ∧ t.chan.rate = s.chan.rate ∧ t.chan.outbound = s.chan.outbound
    ∧ t.cfg = s.cfg ∧ t.clock = s.clock ∧ t.agenda = rest ∧ t.reply = s.reply

/-! ## Host accesses -/

/-- A register read answers the register's value and changes no state: the answer is the model's own field, log 8
(20_memory.md R61, R65). -/
def Obligations.RegisterReadAnswersWithoutSideEffect : Prop :=
  ∀ (s : State) (r : Reg),
    hostAccess s (.read 32 r.addr) = .next { s with reply := some { width := 32, data := readReg s r } }

/-- A read of an implemented byte of any buffer answers the byte and changes no state: the answer is the model's own field,
log 8 (20_memory.md R62, R65). -/
def Obligations.BufferReadAnswersWithoutSideEffect : Prop :=
  ∀ (s : State) (b : Buf) (i : Nat), s.cfg.legal = true → i < b.size s.cfg →
    hostAccess s (.read 8 (BitVec.ofNat 12 (b.base + i)))
      = .next { s with reply := some { width := 8, data := (Memory.read s.mem (b.base + i)).setWidth 32 } }

/-- A write of a register the host may write stores the value, TXCFG keeping only its fields, and changes no other register
and no buffer, engine or channel state (20_memory.md R61, 10_state.md R29). -/
def Obligations.RegisterWriteStoresTheValue : Prop :=
  ∀ (s : State) (r : Reg) (v : Word), r ∈ hostOwned → ∃ t, hostAccess s (.write 32 r.addr v) = .next t
    ∧ readReg t r = (if r = .txcfg then v &&& 0x0000FF01 else v)
    ∧ (∀ q : Reg, q ≠ r → readReg t q = readReg s q)
    ∧ t.mem = s.mem ∧ t.eng = s.eng ∧ t.chan = s.chan ∧ t.clock = s.clock ∧ t.cfg = s.cfg
    ∧ t.agenda = s.agenda ∧ t.reply = s.reply

/-- A write of an implemented byte of DIN or TX stores the byte there, and every other byte and all other state is as
before (20_memory.md R62). -/
def Obligations.BufferWriteStoresTheByte : Prop :=
  ∀ (s : State) (b : Buf) (i : Nat) (v : Word), s.cfg.legal = true → b = .din ∨ b = .tx → i < b.size s.cfg →
    ∃ t, hostAccess s (.write 8 (BitVec.ofNat 12 (b.base + i)) v) = .next t
      ∧ Memory.read t.mem (b.base + i) = v.extractLsb' 0 8
      ∧ (∀ a, a ≠ b.base + i → Memory.read t.mem a = Memory.read s.mem a)
      ∧ t = { s with mem := t.mem }

/-- Every access that no rule admits is a bus error: it sets BERR, a read answers 0 of its width, and nothing else changes
(20_memory.md R63, R64); the answer is the model's own field, log 8, an access of any width is one, log 12, and that a
failing read sets BERR although R65 gives no read a side effect is the model's reading, log 19. -/
def Obligations.UnadmittedAccessIsABusError : Prop :=
  ∀ (s : State) (a : HostAccess), ¬ a.admitted s.cfg → ∃ t, hostAccess s a = .next t
    ∧ berrWritten s.status t.status
    ∧ t = { s with status := t.status, reply := t.reply }
    ∧ (∀ width addr, a = .read width addr → t.reply = some { width := width, data := 0 })
    ∧ (∀ width addr v, a = .write width addr v → t.reply = s.reply)

/-! ## Hex codec -/

/-- `hexchar` is the ASCII lowercase hex digit and never an upper-case one (40_hexcodec.md R110). -/
def Obligations.HexcharIsLowercaseAscii : Prop :=
  ∀ n : BitVec 4,
    (n.toNat ≤ 9 → (hexchar n).toNat = 0x30 + n.toNat) ∧ (10 ≤ n.toNat → (hexchar n).toNat = 0x61 + (n.toNat - 10))
      ∧ ¬ (0x41 ≤ hexchar n ∧ hexchar n ≤ 0x46)

/-- `hexval` and `hexvalid` by the ranges of bytes, for both settings of HEX_UPPER (40_hexcodec.md R111). -/
def Obligations.HexvalFollowsTheByteRanges : Prop :=
  ∀ (upper : Bool) (c : Byte),
    if 0x30 ≤ c.toNat ∧ c.toNat ≤ 0x39 then
      (hexval upper c).toNat = c.toNat - 0x30 ∧ hexvalid upper c = true
    else if 0x61 ≤ c.toNat ∧ c.toNat ≤ 0x66 then
      (hexval upper c).toNat = c.toNat - 0x61 + 10 ∧ hexvalid upper c = true
    else if upper = true ∧ 0x41 ≤ c.toNat ∧ c.toNat ≤ 0x46 then
      (hexval upper c).toNat = c.toNat - 0x41 + 10 ∧ hexvalid upper c = true
    else (hexval upper c).toNat = 0 ∧ hexvalid upper c = false

/-- HEXENC.B, HEXENC.H and HEXENC.W complete in every state with the characters of OPA[7:0], OPA[15:0] and OPA, least-significant
byte first and high nibble first, and change nothing but RESA, RESB and ERR (40_hexcodec.md R112, R113, R114). -/
def Obligations.HexEncodersGiveTheDigits : Prop :=
  (resultCommand 0x00000001 .hexencB
      (fun s => 0#16 ++ hexchar (s.opa.extractLsb' 0 4) ++ hexchar (s.opa.extractLsb' 4 4))
      (fun _ => 0)) ∧
  (resultCommand 0x00000002 .hexencH
      (fun s => hexchar (s.opa.extractLsb' 8 4) ++ hexchar (s.opa.extractLsb' 12 4)
        ++ hexchar (s.opa.extractLsb' 0 4) ++ hexchar (s.opa.extractLsb' 4 4))
      (fun _ => 0)) ∧
  (resultCommand 0x00000003 .hexencW
      (fun s => hexchar (s.opa.extractLsb' 8 4) ++ hexchar (s.opa.extractLsb' 12 4)
        ++ hexchar (s.opa.extractLsb' 0 4) ++ hexchar (s.opa.extractLsb' 4 4))
      (fun s => hexchar (s.opa.extractLsb' 24 4) ++ hexchar (s.opa.extractLsb' 28 4)
        ++ hexchar (s.opa.extractLsb' 16 4) ++ hexchar (s.opa.extractLsb' 20 4)))

/-- HEXDIG completes in every state with the digit and whether it was valid (40_hexcodec.md R115). -/
def Obligations.HexdigResult : Prop :=
  resultCommand 0x00000004 .hexdig
    (fun s => (hexval s.cfg.hexUpper (s.opa.extractLsb' 0 8)).setWidth 32)
    (fun s => (BitVec.ofBool (hexvalid s.cfg.hexUpper (s.opa.extractLsb' 0 8))).setWidth 32)

/-- HEXDEC.B, HEXDEC.H and HEXDEC.W complete in every state with the value of their characters, zero-extended, and the mask of
invalid characters, and change nothing but RESA, RESB and ERR (40_hexcodec.md R116, R117, R118). -/
def Obligations.HexDecodersGiveTheValue : Prop :=
  (resultCommand 0x00000005 .hexdecB
      (fun s =>
        let d := fun k => hexval s.cfg.hexUpper (lane s.opa k)
        (d 0 ++ d 1).setWidth 32)
      (fun s =>
        let bad := fun k => BitVec.ofBool (!hexvalid s.cfg.hexUpper (lane s.opa k))
        (bad 1 ++ bad 0).setWidth 32)) ∧
  (resultCommand 0x00000006 .hexdecH
      (fun s =>
        let d := fun k => hexval s.cfg.hexUpper (lane s.opa k)
        (d 2 ++ d 3 ++ d 0 ++ d 1).setWidth 32)
      (fun s =>
        let bad := fun k => BitVec.ofBool (!hexvalid s.cfg.hexUpper (lane s.opa k))
        (bad 3 ++ bad 2 ++ bad 1 ++ bad 0).setWidth 32)) ∧
  (resultCommand 0x00000007 .hexdecW
      (fun s =>
        let d := fun k => hexval s.cfg.hexUpper (lane s.opa k)
        let e := fun k => hexval s.cfg.hexUpper (lane s.opb k)
        e 2 ++ e 3 ++ e 0 ++ e 1 ++ d 2 ++ d 3 ++ d 0 ++ d 1)
      (fun s =>
        let bad := fun (w : Word) k => BitVec.ofBool (!hexvalid s.cfg.hexUpper (lane w k))
        (bad s.opb 3 ++ bad s.opb 2 ++ bad s.opb 1 ++ bad s.opb 0
          ++ bad s.opa 3 ++ bad s.opa 2 ++ bad s.opa 1 ++ bad s.opa 0).setWidth 32))

/-- HEXENC and then HEXDEC of what it gave returns the value, zero-extended, with no character invalid, at every width and
in every configuration (40_hexcodec.md R119, first sentence). -/
def Obligations.HexValuesSurviveEncodeThenDecode : Prop :=
  ∀ s : State,
    (∃ t u, exec .hexencB s = .next t ∧ exec .hexdecB { t with opa := t.resa, opb := t.resb } = .next u
      ∧ u.resa = (s.opa.extractLsb' 0 8).setWidth 32 ∧ u.resb = 0)
    ∧ (∃ t u, exec .hexencH s = .next t ∧ exec .hexdecH { t with opa := t.resa, opb := t.resb } = .next u
      ∧ u.resa = (s.opa.extractLsb' 0 16).setWidth 32 ∧ u.resb = 0)
    ∧ (∃ t u, exec .hexencW s = .next t ∧ exec .hexdecW { t with opa := t.resa, opb := t.resb } = .next u
      ∧ u.resa = s.opa ∧ u.resb = 0)

/-- HEXDEC and then HEXENC of what it gave returns, at every width, each character as the lower-case digit of its value, and
the characters come back as they were exactly where each of them was a lower-case digit (40_hexcodec.md R119, second
sentence). -/
def Obligations.HexCharactersComeBackLowercase : Prop :=
  ∀ s : State,
    let lower := fun c : Byte => hexchar (hexval s.cfg.hexUpper c)
    let isLower := fun c : Byte => (0x30 ≤ c.toNat ∧ c.toNat ≤ 0x39) ∨ (0x61 ≤ c.toNat ∧ c.toNat ≤ 0x66)
    (∃ t u, exec .hexdecB s = .next t ∧ exec .hexencB { t with opa := t.resa } = .next u
      ∧ (∀ k < 2, lane u.resa k = lower (lane s.opa k)) ∧ u.resa.extractLsb' 16 16 = 0#16 ∧ u.resb = 0
      ∧ ((∀ k < 2, lane u.resa k = lane s.opa k) ↔ ∀ k < 2, isLower (lane s.opa k)))
    ∧ (∃ t u, exec .hexdecH s = .next t ∧ exec .hexencH { t with opa := t.resa } = .next u
      ∧ (∀ k < 4, lane u.resa k = lower (lane s.opa k)) ∧ u.resb = 0
      ∧ (u.resa = s.opa ↔ ∀ k < 4, isLower (lane s.opa k)))
    ∧ (∃ t u, exec .hexdecW s = .next t ∧ exec .hexencW { t with opa := t.resa } = .next u
      ∧ (∀ k < 4, lane u.resa k = lower (lane s.opa k) ∧ lane u.resb k = lower (lane s.opb k))
      ∧ ((u.resa = s.opa ∧ u.resb = s.opb) ↔ ∀ k < 4, isLower (lane s.opa k) ∧ isLower (lane s.opb k)))

/-! ## Field names -/

/-- The letter codes: 1-26 for letters of either case in alphabetical order, 27-31 for '0'-'4', 0 for every other byte; and
the letter of a code: no character for 0, 'a'-'z' for 1-26, '0'-'4' for 27-31 (41_fieldname.md R140, R141). -/
def Obligations.LetterTablesFollowTheRanges : Prop :=
  (∀ c : Byte,
      if 0x61 ≤ c.toNat ∧ c.toNat ≤ 0x7A then (letterCode c).toNat = c.toNat - 0x60
      else if 0x41 ≤ c.toNat ∧ c.toNat ≤ 0x5A then (letterCode c).toNat = c.toNat - 0x40
      else if 0x30 ≤ c.toNat ∧ c.toNat ≤ 0x34 then (letterCode c).toNat = c.toNat - 0x30 + 27
      else (letterCode c).toNat = 0) ∧
  (∀ k : BitVec 5,
      if k.toNat = 0 then (codeLetter k).toNat = 0x00
      else if k.toNat ≤ 26 then (codeLetter k).toNat = 0x60 + k.toNat
      else (codeLetter k).toNat = 0x30 + (k.toNat - 27))

/-- LETENC completes in every state with the code of OPA[7:0] (41_fieldname.md R144). -/
def Obligations.LetencResult : Prop :=
  resultCommand 0x00000010 .letenc (fun s => (letterCode (s.opa.extractLsb' 0 8)).setWidth 32) (fun _ => 0)

/-- LETDEC completes in every state with the letter of OPA[4:0] (41_fieldname.md R145). -/
def Obligations.LetdecResult : Prop :=
  resultCommand 0x00000011 .letdec (fun s => (codeLetter (s.opa.extractLsb' 0 5)).setWidth 32) (fun _ => 0)

/-- NAMEPACK completes in every state with the packed name of OPB's three characters, bit 15 clear (41_fieldname.md R142,
R146). -/
def Obligations.NamepackResult : Prop :=
  resultCommand 0x00000012 .namepack
    (fun s => (letterCode (lane s.opb 0) ++ letterCode (lane s.opb 1) ++ letterCode (lane s.opb 2)).setWidth 32)
    (fun _ => 0)

/-- NAMEUNPK completes in every state with the three slots of OPA[15:0], each decoded on its own, and the number of slots
before the first null one (41_fieldname.md R143, R147). -/
def Obligations.NameunpkResult : Prop :=
  resultCommand 0x00000013 .nameunpk
    (fun s =>
      let s0 := codeLetter (s.opa.extractLsb' 10 5)
      let s1 := codeLetter (s.opa.extractLsb' 5 5)
      let s2 := codeLetter (s.opa.extractLsb' 0 5)
      (if s0 = 0x00 then 0#8 else if s1 = 0x00 then 1#8 else if s2 = 0x00 then 2#8 else 3#8) ++ s2 ++ s1 ++ s0)
    (fun _ => 0)

/-- Packing and unpacking a name gives its characters in lower case, with null slots for those that cannot be encoded and
length 3 where none is null; unpacking and packing any 16-bit value gives it back with bit 15 cleared (41_fieldname.md R148,
R149). -/
def Obligations.NamesSurvivePackAndUnpack : Prop :=
  (∀ c0 c1 c2 : Byte,
    let u := unpackName (packName c0 c1 c2)
    u.s0 = slotOf c0 ∧ u.s1 = slotOf c1 ∧ u.s2 = slotOf c2
      ∧ (slotOf c0 ≠ 0x00 → slotOf c1 ≠ 0x00 → slotOf c2 ≠ 0x00 → u.len = 3))
    ∧ ∀ n : Half,
      let u := unpackName n
      packName u.s0 u.s1 u.s2 = n &&& 0x7FFF

/-! ## Message frames -/

/-- MSGCLR completes in every state: MSG all 0x00, MLEN, RESA and RESB 0, ERR = OK, nothing else changed (42_message.md
R166). -/
def Obligations.MsgclrEmptiesTheMessage : Prop :=
  decode 0x00000020 = .ok .msgclr ∧ ∀ s : State, ∃ t, exec .msgclr s = .next t
    ∧ (∀ j < 24, Memory.read t.mem (0x100 + j) = 0x00) ∧ bytesKeptOutside 0x100 24 s t
    ∧ t.mlen = 0 ∧ t.resa = 0 ∧ t.resb = 0 ∧ errWritten 0 s.status t.status
    ∧ HostSideKept s t ∧ EngineKept s t ∧ t.dcnt = s.dcnt

/-- `scale10i(x)` is 10·x in two's complement exactly where it fits 16 bits, that is for -3276 ≤ x ≤ 3276, and out of range
otherwise (42_message.md R164). -/
def Obligations.ScaledIntegerIsTenTimesOrOutOfRange : Prop :=
  ∀ x : Word,
    if -3276 ≤ x.toInt ∧ x.toInt ≤ 3276 then ∃ v, scale10i x.toInt = some v ∧ v.toInt = 10 * x.toInt
    else scale10i x.toInt = none

/-- MSGADDI: CAPACITY where the block does not fit, else RANGE where 10·x does not fit, else the block of 10·x appended
(42_message.md R163, R167). That a refused add writes RESA and RESB is the model's choice among the spec's rules, log 13. -/
def Obligations.MsgaddiAppendsTenTimesTheInteger : Prop :=
  decode 0x00000021 = .ok .msgaddi ∧ ∀ s : State,
    (s.mlen.toNat + 8 > 24 → addRefusedWith 2 s (exec .msgaddi s))
    ∧ (s.mlen.toNat + 8 ≤ 24 → (s.opa.toInt < -3276 ∨ 3276 < s.opa.toInt) → addRefusedWith 3 s (exec .msgaddi s))
    ∧ (s.mlen.toNat + 8 ≤ 24 → -3276 ≤ s.opa.toInt → s.opa.toInt ≤ 3276 →
        addAppends (BitVec.ofInt 16 (10 * s.opa.toInt)) s (exec .msgaddi s))

/-- MSGADDF: CAPACITY where the block does not fit, else RANGE where SCALE10F of OPA is out of range, else the block of the
scaled value appended, whichever function SCALE10F is; and the values the rule lists for the reference definition,
the model's named default, log 5 (42_message.md R163, R168). That a refused add writes RESA and RESB is the model's choice
among the spec's rules, log 13. -/
def Obligations.MsgaddfAppendsTheScaledFloat : Prop :=
  decode 0x00000022 = .ok .msgaddf ∧ (∀ s : State,
    (s.mlen.toNat + 8 > 24 → addRefusedWith 2 s (exec .msgaddf s))
    ∧ (s.mlen.toNat + 8 ≤ 24 → scale10f s.cfg.scale10f s.opa = none → addRefusedWith 3 s (exec .msgaddf s))
    ∧ (∀ v, s.mlen.toNat + 8 ≤ 24 → scale10f s.cfg.scale10f s.opa = some v → addAppends v s (exec .msgaddf s)))
    ∧ (let ref := scale10f .reference
       ref 0x80000000 = some 0 ∧ ref 0x3D4CCCCD = some 0 ∧ ref 0xBD4CCCCD = some 0 ∧ ref 0x41BC0000 = some 235
        ∧ ref 0x40833333 = some 41 ∧ ref 0x3F933333 = some 11 ∧ ref 0x454CCB33 = some 32767 ∧ ref 0x454CCCCD = none
        ∧ ref 0xC54CCCCD = some (BitVec.ofInt 16 (-32768))
        ∧ ∀ f : Word, (f.extractLsb' 23 8).toNat = 255 → ref f = none)

/-- MSGADDS: CAPACITY where the block does not fit, else the block of the packed string, unscaled, appended (42_message.md
R163, R169). That a refused add writes RESA and RESB is the model's choice among the spec's rules, log 13. -/
def Obligations.MsgaddsAppendsThePackedString : Prop :=
  decode 0x00000023 = .ok .msgadds ∧ ∀ s : State,
    (s.mlen.toNat + 8 > 24 → addRefusedWith 2 s (exec .msgadds s))
    ∧ (s.mlen.toNat + 8 ≤ 24 →
        addAppends (0#1 ++ letterCode (lane s.opa 0) ++ letterCode (lane s.opa 1) ++ letterCode (lane s.opa 2)) s
          (exec .msgadds s))

/-- The reference SCALE10F: NaN and infinities are out of range; of a finite value, ten times it is rounded to binary32,
nearest with ties to even, truncated toward zero, and stored where it fits 16 bits (42_message.md R165). Magnitudes are
counted in units of 2^-149; a product beyond binary32's range is out of the 16-bit range too (log 17). -/
def Obligations.FloatReferenceRoundsThenTruncates : Prop :=
  ∀ f : Word,
    let e := (f.extractLsb' 23 8).toNat
    let m := (f.extractLsb' 0 23).toNat
    if e = 255 then scale10fReference f = none
    else ∃ p, roundsToNearestEven (10 * (if e = 0 then m else (m + 2 ^ 23) * 2 ^ (e - 1))) p
      ∧ scale10fReference f
        = (let t : Int := if f.getLsbD 31 then -((p / 2 ^ 149 : Nat) : Int) else ((p / 2 ^ 149 : Nat) : Int)
           if -32768 ≤ t ∧ t ≤ 32767 then some (BitVec.ofInt 16 t) else none)

/-- From MLEN = 0 three accepted adds give MLEN = 24, and a fourth add of any kind returns CAPACITY with the message
unchanged and RESA = 12 (42_message.md R176). -/
def Obligations.FourthFieldIsRefused : Prop :=
  ∀ (s : State) (a b c d : AddStep), s.mlen = 0 →
    (a.value s.cfg).isSome → (b.value s.cfg).isSome → (c.value s.cfg).isSome →
    d.instr = .msgaddi ∨ d.instr = .msgaddf ∨ d.instr = .msgadds →
    ∃ t u, runAdds s [a, b, c] = .next t ∧ t.mlen = 24 ∧ d.run t = .next u
      ∧ statusErr u.status = 2 ∧ u.mlen = 24 ∧ u.resa = 12 ∧ bytesKept t u

/-- MSGDEC: ARG alone where DLEN exceeds DIN_CAP; else every whole block of DIN decoded to its record, the rest of DOUT 0x00,
DCNT and RESA the count, RESB the length of the tail, and nothing else changed (42_message.md R171, R172, 10_state.md R33). -/
def Obligations.MsgdecDecodesEveryWholeBlock : Prop :=
  decode 0x00000024 = .ok .msgdec ∧ ∀ s : State,
    (s.dlen.toNat > s.cfg.dinCap → rejectedWith 4 s (exec .msgdec s))
    ∧ (s.dlen.toNat ≤ s.cfg.dinCap → ∃ t, exec .msgdec s = .next t
      ∧ t.dcnt.toNat = s.dlen.toNat / 8 ∧ t.resa = t.dcnt ∧ t.resb.toNat = s.dlen.toNat % 8
      ∧ (∀ j < s.dlen.toNat / 8,
          let d := fun k => hexval s.cfg.hexUpper (Memory.read s.mem (0x200 + 8 * j + k))
          let n : Half := d 2 ++ d 3 ++ d 0 ++ d 1
          let v : Half := d 6 ++ d 7 ++ d 4 ++ d 5
          let u := unpackName n
          Memory.readBytes t.mem (0x400 + 8 * j) 8
            = [u.s0, u.s1, u.s2, u.len, v.extractLsb' 0 8, v.extractLsb' 8 8, 0x00, 0x00])
      ∧ (∀ a, 0x400 + 8 * (s.dlen.toNat / 8) ≤ a → a < 0x400 + 8 * (s.cfg.dinCap / 8) → Memory.read t.mem a = 0x00)
      ∧ bytesKeptOutside 0x400 (8 * (s.cfg.dinCap / 8)) s t
      ∧ errWritten 0 s.status t.status ∧ HostSideKept s t ∧ EngineKept s t ∧ t.mlen = s.mlen)

/-- Round trip: after MSGCLR and at most three accepted adds, copying the message into DIN and decoding it gives one record
per add, with the lower-cased name (null slots for unencodable characters) and the 16-bit value the add stored, which for
MSGADDI is ten times the integer (42_message.md R175). -/
def Obligations.MessageSurvivesEncodeThenDecode : Prop :=
  ∀ (s : State) (as : List AddStep), as.length ≤ 3 → 8 * as.length ≤ s.cfg.dinCap →
    (∀ a ∈ as, (a.value s.cfg).isSome) →
    ∃ s0 t u, exec .msgclr s = .next s0 ∧ runAdds s0 as = .next t ∧ exec .msgdec (copyToDin t) = .next u
      ∧ u.dcnt.toNat = as.length
      ∧ ∀ j a, as[j]? = some a →
          doutByte u j 0 = slotOf (lane a.opb 0) ∧ doutByte u j 1 = slotOf (lane a.opb 1)
          ∧ doutByte u j 2 = slotOf (lane a.opb 2) ∧ a.value s.cfg = some (doutValue u j)
          ∧ (a.instr = .msgaddi → tenths (doutValue u j) = 10 * a.opa.toInt)

/-- The decimal digits of a number are ASCII digits that denote it, without a leading zero, and `render` shows the sign
once and exactly one fractional digit (42_message.md R173). -/
def Obligations.RenderDenotesTheTenths : Prop :=
  (∀ k : Nat, (∀ c ∈ dec k, 0x30 ≤ c.toNat ∧ c.toNat ≤ 0x39)
      ∧ (dec k).foldl (fun acc c => 10 * acc + (c.toNat - 0x30)) 0 = k
      ∧ (dec k = [0x30] ∨ (dec k).head? ≠ some 0x30) ∧ dec k ≠ [])
    ∧ ∀ n : Int, ∃ d : Byte, (d.toNat : Int) = 0x30 + (n.natAbs % 10 : Nat)
      ∧ render n = (if n < 0 then [0x2D#8] else []) ++ dec (n.natAbs / 10) ++ [0x2E#8, d]

/-! ## Transactions -/

/-- TXEXEC is turned away with ARG alone for a TXLEN over capacity, an odd TXLEN in binary mode, or an EXPECT the
marker-offset array cannot hold (43_transaction.md R200). -/
def Obligations.TxexecRejectsBadArguments : Prop :=
  ∀ s : State,
    s.txlen.toNat > s.cfg.txCap ∨ (s.txcfg.getLsbD 0 = false ∧ s.txlen.toNat % 2 = 1)
      ∨ max s.expect.toNat 1 > s.cfg.moffCap →
    rejectedWith 4 s (exec .txexec s)

/-- TXEXEC with good arguments starts the transaction: the units of 43_transaction.md R201, the inputs captured, RX and MOFF
and the counts cleared, RXOVF 0, TXRES NONE, the channel opened at BITRATE, the first deadline one clock sample plus
TIMEOUT, BUSY 1, ERR OK, and nothing else changed (R200, R202). The sample is the model's draw, log 3, and the recorded rate
its own field, log 9. -/
def Obligations.TxexecStartsTheTransaction : Prop :=
  decode 0x00000030 = .ok .txexec ∧ ∀ s : State,
    s.txlen.toNat ≤ s.cfg.txCap → (s.txcfg.getLsbD 0 = true ∨ s.txlen.toNat % 2 = 0) →
    max s.expect.toNat 1 ≤ s.cfg.moffCap →
    ∃ t, exec .txexec s = .next t
      ∧ t.eng.units =
        (if s.txcfg.getLsbD 0 = true then (List.range s.txlen.toNat).map (fun i => Memory.read s.mem (0x600 + i))
         else (List.range (s.txlen.toNat / 2)).map (fun i =>
          hexval s.cfg.hexUpper (Memory.read s.mem (0x600 + 2 * i))
            ++ hexval s.cfg.hexUpper (Memory.read s.mem (0x600 + 2 * i + 1))))
      ∧ t.eng.state = .run ∧ t.eng.k = 0 ∧ t.eng.timeout = s.timeout.toNat ∧ t.eng.expect = s.expect.toNat
      ∧ t.eng.marker = s.txcfg.extractLsb' 8 8 ∧ t.eng.deadline = t.clock.last + s.timeout.toNat
      ∧ t.clock = s.clock.sample ∧ s.clock.last ≤ t.clock.last
      ∧ (∀ j < s.cfg.rxCap, Memory.read t.mem (0x800 + j) = 0x00)
      ∧ (∀ j < 2 * s.cfg.moffCap, Memory.read t.mem (0xA00 + j) = 0x00)
      ∧ (∀ a, (a < 0x800 ∨ 0x800 + s.cfg.rxCap ≤ a) → (a < 0xA00 ∨ 0xA00 + 2 * s.cfg.moffCap ≤ a) →
          Memory.read t.mem a = Memory.read s.mem a)
      ∧ t.rxlen = 0 ∧ t.mcount = 0 ∧ t.txsent = 0
      ∧ t.chan = { isOpen := true, inbound := [], rate := some s.bitrate, outbound := [] }
      ∧ statusBusy t.status = true ∧ statusErr t.status = 0 ∧ statusTxres t.status = 0 ∧ statusRxovf t.status = false
      ∧ statusBerr t.status = statusBerr s.status ∧ (∀ k, k = 3 ∨ 10 ≤ k → t.status.getLsbD k = s.status.getLsbD k)
      ∧ HostSideKept s t ∧ t.resa = s.resa ∧ t.resb = s.resb ∧ t.mlen = s.mlen ∧ t.dcnt = s.dcnt

/-- The send part of an iteration: exactly the next unit is handed to the channel, TXSENT counts it, and the deadline
becomes a sample taken after it plus the captured TIMEOUT; with no unit left nothing changes (43_transaction.md R204). The
record of units handed over is the model's own field, log 9. -/
def Obligations.SendPartSendsOneUnit : Prop :=
  ∀ s : State,
    (∀ u, s.eng.units[s.eng.k]? = some u →
      sendPart s = { s with
        chan := { s.chan with outbound := s.chan.outbound ++ [u] }
        clock := s.clock.sample
        eng := { s.eng with k := s.eng.k + 1, deadline := s.clock.sample.last + s.eng.timeout }
        txsent := BitVec.ofNat 32 (s.eng.k + 1) })
    ∧ (s.eng.units.length ≤ s.eng.k → sendPart s = s)

/-- A sample strictly above the deadline ends the loop at once: the channel is closed and no inbound byte is read, even if
one is available (43_transaction.md R205). The engine's step is one from the agenda, or the one an empty agenda means, with
the host and the channel silent: the model's choice, log 1. That Finish keeps what the engine captured is log 14. -/
def Obligations.PassedDeadlineEndsTheLoopUnread : Prop :=
  ∀ (s : State) (rest : List Event), s.eng.state = .run → s.engineTurn rest →
    (sendPart s).clock.sample.last > (sendPart s).eng.deadline →
    ∃ t, step s = .next t ∧ t.eng = { (sendPart s).eng with state := .idle } ∧ t.chan.isOpen = false
      ∧ t.rxlen = s.rxlen ∧ t.mcount = s.mcount ∧ t.mem = s.mem ∧ statusBusy t.status = false
      ∧ statusRxovf t.status = statusRxovf s.status ∧ t.agenda = rest

/-- An iteration with no sample above the deadline and nothing available does its send part and takes its clock sample, and
nothing else; so with nothing to send either, only the sample is taken (43_transaction.md R203, R204). The engine's step is
one from the agenda, or the one an empty agenda means, with the host and the channel silent: the model's choice, log 1. -/
def Obligations.EmptyIterationChangesNothing : Prop :=
  ∀ (s : State) (rest : List Event), s.eng.state = .run → s.engineTurn rest → s.chan.inbound = [] →
    ((sendPart s).clock.sample.last ≤ (sendPart s).eng.deadline →
      step s = .next { sendPart s with agenda := rest, clock := (sendPart s).clock.sample })
    ∧ (s.eng.units.length ≤ s.eng.k → s.clock.sample.last ≤ s.eng.deadline →
      step s = .next { s with agenda := rest, clock := s.clock.sample })

/-- A marker received in time: the response length is recorded as its offset, the count rises by one, the byte is not
stored, and the loop ends exactly if the count has reached the expected one (43_transaction.md R206, R208). -/
def Obligations.MarkerIsCountedAndNeverStored : Prop :=
  ∀ (s : State) (rest : List Byte), s.Inv → s.eng.state = .run →
    (sendPart s).clock.sample.last ≤ (sendPart s).eng.deadline → s.chan.inbound = s.eng.marker :: rest →
    let t := iterate s
    t.mcount.toNat = s.mcount.toNat + 1 ∧ markerOffset t s.mcount.toNat = s.rxlen.toNat
      ∧ bytesKeptOutside (0xA00 + 2 * s.mcount.toNat) 2 s t ∧ t.rxlen = s.rxlen
      ∧ (if s.eng.expect ≤ s.mcount.toNat + 1 then
          t.eng.state = .idle ∧ statusTxres t.status = 1 ∧ t.chan.isOpen = false
         else t.eng = (sendPart s).eng ∧ t.status = s.status ∧ t.chan.inbound = rest ∧ t.chan.isOpen = true)

/-- Any other byte received in time: appended to RX where there is room, else discarded with RXOVF = 1 and RXLEN unchanged;
the transaction goes on (43_transaction.md R207). -/
def Obligations.OtherByteIsAppendedOrDropped : Prop :=
  ∀ (s : State) (b : Byte) (rest : List Byte), s.Inv → s.eng.state = .run →
    (sendPart s).clock.sample.last ≤ (sendPart s).eng.deadline → s.chan.inbound = b :: rest → b ≠ s.eng.marker →
    let t := iterate s
    t.eng = (sendPart s).eng ∧ t.mcount = s.mcount ∧ t.txsent = (sendPart s).txsent
      ∧ t.chan = { (sendPart s).chan with inbound := rest }
      ∧ (if s.rxlen.toNat < s.cfg.rxCap then
          t.rxlen.toNat = s.rxlen.toNat + 1 ∧ Memory.read t.mem (0x800 + s.rxlen.toNat) = b
            ∧ bytesKeptOutside (0x800 + s.rxlen.toNat) 1 s t ∧ t.status = s.status
         else t.rxlen = s.rxlen ∧ bytesKept s t ∧ statusRxovf t.status = true
            ∧ ∀ k, k ≠ 2 → t.status.getLsbD k = s.status.getLsbD k)

/-- `Finish()` closes the channel, sets TXRES to OK, NORESP or REPLY by the marker count and the response length, returns
the engine to IDLE with BUSY 0, and changes nothing else (43_transaction.md R210). That the engine keeps what it captured
is log 14, and that the channel keeps its record of the rate and the units is log 9: the model's choices. -/
def Obligations.FinishClassifiesTheResponse : Prop :=
  ∀ s : State,
    let t := finishTransaction s
    t.chan = { s.chan with isOpen := false, inbound := [] } ∧ t.eng = { s.eng with state := .idle }
      ∧ (if s.eng.expect ≤ s.mcount.toNat then statusTxres t.status = 1
         else if s.rxlen = 0 then statusTxres t.status = 2 else statusTxres t.status = 3)
      ∧ statusBusy t.status = false
      ∧ (∀ k, k ≠ 0 → k ≠ 8 → k ≠ 9 → t.status.getLsbD k = s.status.getLsbD k)
      ∧ t = { s with chan := t.chan, eng := t.eng, status := t.status }

/-- A transaction with no unit left to send never fails before a sample exceeds its deadline (43_transaction.md R213). First,
with the host and the channel silent (an empty agenda, log 1) and nothing received, steps change nothing but the clock.
Second, whatever other bytes arrive or wait unread and whatever the host accesses meanwhile, short of a CMD write, a reset
and a marker, the engine stays RUN with the same deadline and marker count. In both, the last sample plus the increments of
the coming steps, which are the model's own data (log 3), is at most the deadline. -/
def Obligations.WaitingTransactionNeverFailsEarly : Prop :=
  ∀ (n : Nat) (s : State), s.eng.state = .run → s.eng.units.length ≤ s.eng.k →
    n ≤ s.clock.pending.length → s.clock.last + (s.clock.pending.take n).sum ≤ s.eng.deadline →
    (s.agenda = [] → s.chan.inbound = [] →
      ∃ c, core.run n s = .next { s with clock := c } ∧ c.last = s.clock.last + (s.clock.pending.take n).sum)
    ∧ (s.eng.marker ∉ s.chan.inbound →
      (∀ e ∈ s.agenda, e ≠ .reset ∧ e ≠ .deliver s.eng.marker ∧ ¬ e.writesCmd) →
      ∃ t, core.run n s = .next t ∧ t.eng = s.eng ∧ t.mcount = s.mcount ∧ t.chan.isOpen = s.chan.isOpen
        ∧ statusBusy t.status = statusBusy s.status ∧ t.clock.last ≤ s.eng.deadline)

/-- A running transaction ends when the clock grows: if every sample to come is above the one before it, then whatever is
still to be sent and whatever has arrived, the engine is IDLE with its channel closed after one iteration per unit left
plus TIMEOUT plus one (43_transaction.md R216, 70_reset_and_hazards.md R290). -/
def Obligations.TransactionEndsWhenTheClockGrows : Prop :=
  ∀ s : State, s.eng.state = .run → s.agenda = [] → s.eng.deadline ≤ s.clock.last + s.eng.timeout →
    (∀ d ∈ s.clock.pending, 1 ≤ d) →
    2 * (s.eng.units.length - s.eng.k) + s.eng.timeout + 1 ≤ s.clock.pending.length →
    ∃ t, core.run (s.eng.units.length - s.eng.k + s.eng.timeout + 1) s = .next t
      ∧ t.eng.state = .idle ∧ t.chan.isOpen = false ∧ statusBusy t.status = false

/-- What the host writes while a transaction runs does not reach it: an iteration after a write of any host-owned register,
or of any buffer byte, differs from the iteration without it in that register or byte alone (70_reset_and_hazards.md R285,
43_transaction.md R201). -/
def Obligations.RunningTransactionIgnoresHostWrites : Prop :=
  (∀ (s : State) (r : Reg) (v : Word), r ∈ hostOwned → iterate (writeReg s r v) = writeReg (iterate s) r v)
    ∧ ∀ (s : State) (a : Nat) (b : Byte),
      let t := iterate s
      let u := iterate { s with mem := Memory.write s.mem a b }
      u = { t with mem := u.mem } ∧ ∀ x, x ≠ a → Memory.read u.mem x = Memory.read t.mem x

/-- The engine's step, taken from the agenda or meant by an empty one, is an iteration while RUN and changes nothing while
IDLE (43_transaction.md R203, 70_reset_and_hazards.md R282). That an engine event while IDLE is a step without effect, and
that an empty agenda means the engine's step, is the model's choice, log 1. -/
def Obligations.EngineStepIteratesWhileRunning : Prop :=
  ∀ (s : State) (rest : List Event), s.engineTurn rest →
    (s.eng.state = .run → step s = .next (iterate { s with agenda := rest }))
    ∧ (s.eng.state = .idle → step s = .next { s with agenda := rest })
end

