-- ==== Sys2Proof/Laws/Memory.lean ====
section
/-! SUPPORT. The laws of the buffers' memory: what a read gives after each operation, and that every operation keeps the
canonical form. The read laws hold of every list of cells, canonical or not. -/

namespace Sys2Proof.Machine

@[simp] theorem read_nil (a : Nat) : Memory.read [] a = Memory.unlisted := rfl

theorem read_cons (c : Host.Cell) (m : Memory) (a : Nat) :
    Memory.read (c :: m) a = if a = c.1 then c.2 else Memory.read m a := rfl

theorem read_filter_of_keep (m : Memory) (p : Host.Cell → Bool) (a : Nat) (h : ∀ c : Host.Cell, c.1 = a → p c = true) :
    Memory.read (m.filter p) a = Memory.read m a := by
  induction m with
  | nil => rfl
  | cons c m ih =>
    by_cases hc : a = c.1
    · simp [h c hc.symm, read_cons, hc]
    · by_cases hp : p c = true
      · simp [hp, read_cons, hc, ih]
      · simp [hp, read_cons, hc, ih]

theorem read_filter_of_drop (m : Memory) (p : Host.Cell → Bool) (a : Nat) (h : ∀ c : Host.Cell, c.1 = a → p c = false) :
    Memory.read (m.filter p) a = Memory.unlisted := by
  induction m with
  | nil => rfl
  | cons c m ih =>
    by_cases hp : p c = true
    · have hc : a ≠ c.1 := fun hc => by simp [h c hc.symm] at hp
      simp [hp, read_cons, hc, ih]
    · simp [hp, ih]

theorem read_insert_same (m : Memory) (a : Nat) (b : Byte) (h : ∀ c ∈ m, c.1 ≠ a) :
    Memory.read (Memory.insert m a b) a = b := by
  induction m with
  | nil => simp [Memory.insert, read_cons]
  | cons c m ih =>
    obtain ⟨x, y⟩ := c
    have hx : a ≠ x := fun e => h (x, y) (by simp) e.symm
    unfold Memory.insert
    split
    · simp [read_cons]
    · simp [read_cons, hx, ih (fun c hc => h c (by simp [hc]))]

theorem read_insert_other (m : Memory) (a x : Nat) (b : Byte) (h : x ≠ a) :
    Memory.read (Memory.insert m a b) x = Memory.read m x := by
  induction m with
  | nil => simp [Memory.insert, read_cons, h]
  | cons c m ih =>
    obtain ⟨y, z⟩ := c
    unfold Memory.insert
    split
    · simp [read_cons, h]
    · simp [read_cons, ih]

/-- A read after a write to the same address gives the byte written. -/
@[simp] theorem read_write_same (m : Memory) (a : Nat) (b : Byte) : Memory.read (Memory.write m a b) a = b := by
  unfold Memory.write
  simp only
  split
  · next h => rw [read_filter_of_drop _ _ _ (by simp), h]
  · exact read_insert_same _ _ _ (by simp)

/-- A write leaves every other address alone. -/
theorem read_write_other (m : Memory) (a x : Nat) (b : Byte) (h : x ≠ a) :
    Memory.read (Memory.write m a b) x = Memory.read m x := by
  have keep : Memory.read (m.filter (fun c => c.1 != a)) x = Memory.read m x :=
    read_filter_of_keep _ _ _ (fun c hc => by simp [hc, h])
  unfold Memory.write
  simp only
  split
  · exact keep
  · rw [read_insert_other _ _ _ _ h, keep]

theorem read_write (m : Memory) (a x : Nat) (b : Byte) :
    Memory.read (Memory.write m a b) x = if x = a then b else Memory.read m x := by
  split
  · next h => rw [h, read_write_same]
  · next h => exact read_write_other _ _ _ _ h

/-- What a read gives after consecutive bytes are written. -/
theorem read_writeBytes (bs : List Byte) (m : Memory) (a x : Nat) :
    Memory.read (Memory.writeBytes m a bs) x
      = if a ≤ x ∧ x < a + bs.length then bs.getD (x - a) 0 else Memory.read m x := by
  induction bs generalizing m a with
  | nil => simp [Memory.writeBytes]
  | cons b bs ih =>
    rw [Memory.writeBytes, ih, read_write]
    by_cases h : x = a
    · subst h; simp
    · by_cases h1 : a ≤ x ∧ x < a + (b :: bs).length
      · have h2 : a + 1 ≤ x ∧ x < a + 1 + bs.length := by simp at h1; omega
        obtain ⟨d, hd⟩ : ∃ d, x - a = d + 1 := ⟨x - a - 1, by omega⟩
        have hd' : x - (a + 1) = d := by omega
        rw [if_pos h2, if_pos h1, hd, hd', List.getD_cons_succ]
      · have h2 : ¬ (a + 1 ≤ x ∧ x < a + 1 + bs.length) := by simp at h1; omega
        rw [if_neg h2, if_neg h1, if_neg h]

theorem read_writeBytes_other (bs : List Byte) (m : Memory) (a x : Nat) (h : x < a ∨ a + bs.length ≤ x) :
    Memory.read (Memory.writeBytes m a bs) x = Memory.read m x := by
  rw [read_writeBytes, if_neg (by omega)]

/-- What a read gives after a range is cleared. -/
theorem read_clear (m : Memory) (a n x : Nat) :
    Memory.read (Memory.clear m a n) x = if a ≤ x ∧ x < a + n then Memory.unlisted else Memory.read m x := by
  unfold Memory.clear
  split
  · next h => exact read_filter_of_drop _ _ _ (fun c hc => by simp [hc, h])
  · next h => exact read_filter_of_keep _ _ _ (fun c hc => by simp [hc]; omega)

@[simp] theorem length_readBytes (m : Memory) (a n : Nat) : (Memory.readBytes m a n).length = n := by
  simp [Memory.readBytes]

theorem getElem?_readBytes (m : Memory) (a n i : Nat) (h : i < n) :
    (Memory.readBytes m a n)[i]? = some (Memory.read m (a + i)) := by
  simp [Memory.readBytes, h]

/-- Two ranges that read alike are read as the same bytes. -/
theorem readBytes_congr (m m' : Memory) (a a' n : Nat) (h : ∀ i < n, Memory.read m (a + i) = Memory.read m' (a' + i)) :
    Memory.readBytes m a n = Memory.readBytes m' a' n := by
  unfold Memory.readBytes
  exact List.map_congr_left (fun i hi => h i (by simpa using hi))

/-- Bytes just written are read back. -/
theorem readBytes_writeBytes_same (bs : List Byte) (m : Memory) (a : Nat) :
    Memory.readBytes (Memory.writeBytes m a bs) a bs.length = bs := by
  apply List.ext_getElem?
  intro i
  by_cases h : i < bs.length
  · rw [getElem?_readBytes _ _ _ _ h, read_writeBytes, if_pos (by omega)]
    simp [h]
  · rw [List.getElem?_eq_none (by simpa using h), List.getElem?_eq_none (by simpa using h)]

/-! ### The canonical form -/

theorem wf_nil : Memory.wf [] := by simp [Memory.wf]

theorem wf_filter (m : Memory) (p : Host.Cell → Bool) (h : Memory.wf m) : Memory.wf (m.filter p) :=
  ⟨h.1.filter p, fun c hc => h.2 c (List.mem_filter.mp hc).1⟩

theorem mem_insert (m : Memory) (a : Nat) (b : Byte) (c : Host.Cell) :
    c ∈ Memory.insert m a b ↔ c = (a, b) ∨ c ∈ m := by
  induction m with
  | nil => simp [Memory.insert]
  | cons d m ih =>
    obtain ⟨x, y⟩ := d
    unfold Memory.insert
    split
    · simp
    · simp [ih]; tauto

theorem wf_insert (m : Memory) (a : Nat) (b : Byte) (h : Memory.wf m) (hb : b ≠ Memory.unlisted)
    (hm : ∀ c ∈ m, c.1 ≠ a) : Memory.wf (Memory.insert m a b) := by
  induction m with
  | nil => simp [Memory.insert, Memory.wf, hb]
  | cons d m ih =>
    obtain ⟨x, y⟩ := d
    obtain ⟨hp, hv⟩ := h
    rw [List.pairwise_cons] at hp
    have ht : Memory.wf m := ⟨hp.2, fun c hc => hv c (by simp [hc])⟩
    have hm' : ∀ c ∈ m, c.1 ≠ a := fun c hc => hm c (by simp [hc])
    have hx : x ≠ a := hm (x, y) (by simp)
    unfold Memory.insert
    split
    · next hlt =>
      refine ⟨List.pairwise_cons.mpr ⟨?_, List.pairwise_cons.mpr hp⟩, ?_⟩
      · intro c hc
        rcases List.mem_cons.mp hc with rfl | hc
        · exact hlt
        · exact lt_trans hlt (hp.1 c hc)
      · intro c hc
        rcases List.mem_cons.mp hc with rfl | hc
        · exact hb
        · exact hv c hc
    · next hlt =>
      have hi := ih ht hm'
      refine ⟨List.pairwise_cons.mpr ⟨?_, hi.1⟩, ?_⟩
      · intro c hc
        rcases (mem_insert _ _ _ _).mp hc with rfl | hc
        · simp only; omega
        · exact hp.1 c hc
      · intro c hc
        rcases List.mem_cons.mp hc with rfl | hc
        · exact hv _ (by simp)
        · exact hi.2 c hc

theorem wf_write (m : Memory) (a : Nat) (b : Byte) (h : Memory.wf m) : Memory.wf (Memory.write m a b) := by
  have hf := wf_filter m (fun c => c.1 != a) h
  unfold Memory.write
  simp only
  split
  · exact hf
  · next hb => exact wf_insert _ _ _ hf hb (by simp)

theorem wf_writeBytes (bs : List Byte) (m : Memory) (a : Nat) (h : Memory.wf m) :
    Memory.wf (Memory.writeBytes m a bs) := by
  induction bs generalizing m a with
  | nil => exact h
  | cons b bs ih => exact ih _ _ (wf_write _ _ _ h)

theorem wf_clear (m : Memory) (a n : Nat) (h : Memory.wf m) : Memory.wf (Memory.clear m a n) := wf_filter _ _ h

/-- The memory after reset is canonical. -/
theorem wf_reset : Memory.wf State.reset.mem := wf_nil

/-! ### Which addresses are listed -/

theorem mem_write_addr (m : Memory) (a : Nat) (b : Byte) (c : Host.Cell) (h : c ∈ Memory.write m a b) :
    c.1 = a ∨ c ∈ m := by
  unfold Memory.write at h
  simp only at h
  split at h
  · exact .inr (List.mem_filter.mp h).1
  · rcases (mem_insert _ _ _ _).mp h with rfl | h
    · exact .inl rfl
    · exact .inr (List.mem_filter.mp h).1

theorem mem_writeBytes_addr (bs : List Byte) (m : Memory) (a : Nat) (c : Host.Cell)
    (h : c ∈ Memory.writeBytes m a bs) : (a ≤ c.1 ∧ c.1 < a + bs.length) ∨ c ∈ m := by
  induction bs generalizing m a with
  | nil => exact .inr h
  | cons b bs ih =>
    rcases ih _ _ h with h | h
    · left; simp; omega
    · rcases mem_write_addr _ _ _ _ h with h | h
      · left; simp; omega
      · exact .inr h

theorem mem_clear (m : Memory) (a n : Nat) (c : Host.Cell) (h : c ∈ Memory.clear m a n) : c ∈ m :=
  (List.mem_filter.mp h).1

end Sys2Proof.Machine
end

