-- ==== Sys2Proof/Laws/State.lean ====
section
/-! SUPPORT. One lemma per field for each named update of the state, and for the updates of the clock and the channel. -/

namespace Sys2Proof.Machine

/-! ### `State.accept` -/

@[simp] theorem accept_cfg (s : State) (ra rb : Word) : (s.accept ra rb).cfg = s.cfg := rfl
@[simp] theorem accept_status (s : State) (ra rb : Word) : (s.accept ra rb).status = setErr .ok s.status := rfl
@[simp] theorem accept_opa (s : State) (ra rb : Word) : (s.accept ra rb).opa = s.opa := rfl
@[simp] theorem accept_opb (s : State) (ra rb : Word) : (s.accept ra rb).opb = s.opb := rfl
@[simp] theorem accept_resa (s : State) (ra rb : Word) : (s.accept ra rb).resa = ra := rfl
@[simp] theorem accept_resb (s : State) (ra rb : Word) : (s.accept ra rb).resb = rb := rfl
@[simp] theorem accept_mlen (s : State) (ra rb : Word) : (s.accept ra rb).mlen = s.mlen := rfl
@[simp] theorem accept_dlen (s : State) (ra rb : Word) : (s.accept ra rb).dlen = s.dlen := rfl
@[simp] theorem accept_dcnt (s : State) (ra rb : Word) : (s.accept ra rb).dcnt = s.dcnt := rfl
@[simp] theorem accept_txlen (s : State) (ra rb : Word) : (s.accept ra rb).txlen = s.txlen := rfl
@[simp] theorem accept_timeout (s : State) (ra rb : Word) : (s.accept ra rb).timeout = s.timeout := rfl
@[simp] theorem accept_expect (s : State) (ra rb : Word) : (s.accept ra rb).expect = s.expect := rfl
@[simp] theorem accept_txcfg (s : State) (ra rb : Word) : (s.accept ra rb).txcfg = s.txcfg := rfl
@[simp] theorem accept_bitrate (s : State) (ra rb : Word) : (s.accept ra rb).bitrate = s.bitrate := rfl
@[simp] theorem accept_rxlen (s : State) (ra rb : Word) : (s.accept ra rb).rxlen = s.rxlen := rfl
@[simp] theorem accept_mcount (s : State) (ra rb : Word) : (s.accept ra rb).mcount = s.mcount := rfl
@[simp] theorem accept_txsent (s : State) (ra rb : Word) : (s.accept ra rb).txsent = s.txsent := rfl
@[simp] theorem accept_mem (s : State) (ra rb : Word) : (s.accept ra rb).mem = s.mem := rfl
@[simp] theorem accept_eng (s : State) (ra rb : Word) : (s.accept ra rb).eng = s.eng := rfl
@[simp] theorem accept_chan (s : State) (ra rb : Word) : (s.accept ra rb).chan = s.chan := rfl
@[simp] theorem accept_clock (s : State) (ra rb : Word) : (s.accept ra rb).clock = s.clock := rfl
@[simp] theorem accept_agenda (s : State) (ra rb : Word) : (s.accept ra rb).agenda = s.agenda := rfl
@[simp] theorem accept_reply (s : State) (ra rb : Word) : (s.accept ra rb).reply = s.reply := rfl

/-! ### `State.reject` -/

@[simp] theorem reject_cfg (s : State) (e : ErrCode) : (s.reject e).cfg = s.cfg := rfl
@[simp] theorem reject_status (s : State) (e : ErrCode) : (s.reject e).status = setErr e s.status := rfl
@[simp] theorem reject_opa (s : State) (e : ErrCode) : (s.reject e).opa = s.opa := rfl
@[simp] theorem reject_opb (s : State) (e : ErrCode) : (s.reject e).opb = s.opb := rfl
@[simp] theorem reject_resa (s : State) (e : ErrCode) : (s.reject e).resa = s.resa := rfl
@[simp] theorem reject_resb (s : State) (e : ErrCode) : (s.reject e).resb = s.resb := rfl
@[simp] theorem reject_mlen (s : State) (e : ErrCode) : (s.reject e).mlen = s.mlen := rfl
@[simp] theorem reject_dlen (s : State) (e : ErrCode) : (s.reject e).dlen = s.dlen := rfl
@[simp] theorem reject_dcnt (s : State) (e : ErrCode) : (s.reject e).dcnt = s.dcnt := rfl
@[simp] theorem reject_txlen (s : State) (e : ErrCode) : (s.reject e).txlen = s.txlen := rfl
@[simp] theorem reject_timeout (s : State) (e : ErrCode) : (s.reject e).timeout = s.timeout := rfl
@[simp] theorem reject_expect (s : State) (e : ErrCode) : (s.reject e).expect = s.expect := rfl
@[simp] theorem reject_txcfg (s : State) (e : ErrCode) : (s.reject e).txcfg = s.txcfg := rfl
@[simp] theorem reject_bitrate (s : State) (e : ErrCode) : (s.reject e).bitrate = s.bitrate := rfl
@[simp] theorem reject_rxlen (s : State) (e : ErrCode) : (s.reject e).rxlen = s.rxlen := rfl
@[simp] theorem reject_mcount (s : State) (e : ErrCode) : (s.reject e).mcount = s.mcount := rfl
@[simp] theorem reject_txsent (s : State) (e : ErrCode) : (s.reject e).txsent = s.txsent := rfl
@[simp] theorem reject_mem (s : State) (e : ErrCode) : (s.reject e).mem = s.mem := rfl
@[simp] theorem reject_eng (s : State) (e : ErrCode) : (s.reject e).eng = s.eng := rfl
@[simp] theorem reject_chan (s : State) (e : ErrCode) : (s.reject e).chan = s.chan := rfl
@[simp] theorem reject_clock (s : State) (e : ErrCode) : (s.reject e).clock = s.clock := rfl
@[simp] theorem reject_agenda (s : State) (e : ErrCode) : (s.reject e).agenda = s.agenda := rfl
@[simp] theorem reject_reply (s : State) (e : ErrCode) : (s.reject e).reply = s.reply := rfl

/-! ### `State.busError` -/

@[simp] theorem busError_cfg (s : State) : (s.busError).cfg = s.cfg := rfl
@[simp] theorem busError_status (s : State) : (s.busError).status = setBerr s.status := rfl
@[simp] theorem busError_opa (s : State) : (s.busError).opa = s.opa := rfl
@[simp] theorem busError_opb (s : State) : (s.busError).opb = s.opb := rfl
@[simp] theorem busError_resa (s : State) : (s.busError).resa = s.resa := rfl
@[simp] theorem busError_resb (s : State) : (s.busError).resb = s.resb := rfl
@[simp] theorem busError_mlen (s : State) : (s.busError).mlen = s.mlen := rfl
@[simp] theorem busError_dlen (s : State) : (s.busError).dlen = s.dlen := rfl
@[simp] theorem busError_dcnt (s : State) : (s.busError).dcnt = s.dcnt := rfl
@[simp] theorem busError_txlen (s : State) : (s.busError).txlen = s.txlen := rfl
@[simp] theorem busError_timeout (s : State) : (s.busError).timeout = s.timeout := rfl
@[simp] theorem busError_expect (s : State) : (s.busError).expect = s.expect := rfl
@[simp] theorem busError_txcfg (s : State) : (s.busError).txcfg = s.txcfg := rfl
@[simp] theorem busError_bitrate (s : State) : (s.busError).bitrate = s.bitrate := rfl
@[simp] theorem busError_rxlen (s : State) : (s.busError).rxlen = s.rxlen := rfl
@[simp] theorem busError_mcount (s : State) : (s.busError).mcount = s.mcount := rfl
@[simp] theorem busError_txsent (s : State) : (s.busError).txsent = s.txsent := rfl
@[simp] theorem busError_mem (s : State) : (s.busError).mem = s.mem := rfl
@[simp] theorem busError_eng (s : State) : (s.busError).eng = s.eng := rfl
@[simp] theorem busError_chan (s : State) : (s.busError).chan = s.chan := rfl
@[simp] theorem busError_clock (s : State) : (s.busError).clock = s.clock := rfl
@[simp] theorem busError_agenda (s : State) : (s.busError).agenda = s.agenda := rfl
@[simp] theorem busError_reply (s : State) : (s.busError).reply = s.reply := rfl

/-! ### `State.refuseAdd` -/

@[simp] theorem refuseAdd_cfg (s : State) (e : ErrCode) : (s.refuseAdd e).cfg = s.cfg := rfl
@[simp] theorem refuseAdd_status (s : State) (e : ErrCode) : (s.refuseAdd e).status = setErr e s.status := rfl
@[simp] theorem refuseAdd_opa (s : State) (e : ErrCode) : (s.refuseAdd e).opa = s.opa := rfl
@[simp] theorem refuseAdd_opb (s : State) (e : ErrCode) : (s.refuseAdd e).opb = s.opb := rfl
@[simp] theorem refuseAdd_resa (s : State) (e : ErrCode) : (s.refuseAdd e).resa = committedBytes s.mlen := rfl
@[simp] theorem refuseAdd_resb (s : State) (e : ErrCode) : (s.refuseAdd e).resb = 0 := rfl
@[simp] theorem refuseAdd_mlen (s : State) (e : ErrCode) : (s.refuseAdd e).mlen = s.mlen := rfl
@[simp] theorem refuseAdd_dlen (s : State) (e : ErrCode) : (s.refuseAdd e).dlen = s.dlen := rfl
@[simp] theorem refuseAdd_dcnt (s : State) (e : ErrCode) : (s.refuseAdd e).dcnt = s.dcnt := rfl
@[simp] theorem refuseAdd_txlen (s : State) (e : ErrCode) : (s.refuseAdd e).txlen = s.txlen := rfl
@[simp] theorem refuseAdd_timeout (s : State) (e : ErrCode) : (s.refuseAdd e).timeout = s.timeout := rfl
@[simp] theorem refuseAdd_expect (s : State) (e : ErrCode) : (s.refuseAdd e).expect = s.expect := rfl
@[simp] theorem refuseAdd_txcfg (s : State) (e : ErrCode) : (s.refuseAdd e).txcfg = s.txcfg := rfl
@[simp] theorem refuseAdd_bitrate (s : State) (e : ErrCode) : (s.refuseAdd e).bitrate = s.bitrate := rfl
@[simp] theorem refuseAdd_rxlen (s : State) (e : ErrCode) : (s.refuseAdd e).rxlen = s.rxlen := rfl
@[simp] theorem refuseAdd_mcount (s : State) (e : ErrCode) : (s.refuseAdd e).mcount = s.mcount := rfl
@[simp] theorem refuseAdd_txsent (s : State) (e : ErrCode) : (s.refuseAdd e).txsent = s.txsent := rfl
@[simp] theorem refuseAdd_mem (s : State) (e : ErrCode) : (s.refuseAdd e).mem = s.mem := rfl
@[simp] theorem refuseAdd_eng (s : State) (e : ErrCode) : (s.refuseAdd e).eng = s.eng := rfl
@[simp] theorem refuseAdd_chan (s : State) (e : ErrCode) : (s.refuseAdd e).chan = s.chan := rfl
@[simp] theorem refuseAdd_clock (s : State) (e : ErrCode) : (s.refuseAdd e).clock = s.clock := rfl
@[simp] theorem refuseAdd_agenda (s : State) (e : ErrCode) : (s.refuseAdd e).agenda = s.agenda := rfl
@[simp] theorem refuseAdd_reply (s : State) (e : ErrCode) : (s.refuseAdd e).reply = s.reply := rfl

/-! ### `State.appendBlock` -/

@[simp] theorem appendBlock_cfg (s : State) (b : List Byte) : (s.appendBlock b).cfg = s.cfg := rfl
@[simp] theorem appendBlock_status (s : State) (b : List Byte) : (s.appendBlock b).status = s.status := rfl
@[simp] theorem appendBlock_opa (s : State) (b : List Byte) : (s.appendBlock b).opa = s.opa := rfl
@[simp] theorem appendBlock_opb (s : State) (b : List Byte) : (s.appendBlock b).opb = s.opb := rfl
@[simp] theorem appendBlock_resa (s : State) (b : List Byte) : (s.appendBlock b).resa = s.resa := rfl
@[simp] theorem appendBlock_resb (s : State) (b : List Byte) : (s.appendBlock b).resb = s.resb := rfl
@[simp] theorem appendBlock_mlen (s : State) (b : List Byte) : (s.appendBlock b).mlen = s.mlen + 8 := rfl
@[simp] theorem appendBlock_dlen (s : State) (b : List Byte) : (s.appendBlock b).dlen = s.dlen := rfl
@[simp] theorem appendBlock_dcnt (s : State) (b : List Byte) : (s.appendBlock b).dcnt = s.dcnt := rfl
@[simp] theorem appendBlock_txlen (s : State) (b : List Byte) : (s.appendBlock b).txlen = s.txlen := rfl
@[simp] theorem appendBlock_timeout (s : State) (b : List Byte) : (s.appendBlock b).timeout = s.timeout := rfl
@[simp] theorem appendBlock_expect (s : State) (b : List Byte) : (s.appendBlock b).expect = s.expect := rfl
@[simp] theorem appendBlock_txcfg (s : State) (b : List Byte) : (s.appendBlock b).txcfg = s.txcfg := rfl
@[simp] theorem appendBlock_bitrate (s : State) (b : List Byte) : (s.appendBlock b).bitrate = s.bitrate := rfl
@[simp] theorem appendBlock_rxlen (s : State) (b : List Byte) : (s.appendBlock b).rxlen = s.rxlen := rfl
@[simp] theorem appendBlock_mcount (s : State) (b : List Byte) : (s.appendBlock b).mcount = s.mcount := rfl
@[simp] theorem appendBlock_txsent (s : State) (b : List Byte) : (s.appendBlock b).txsent = s.txsent := rfl
@[simp] theorem appendBlock_mem (s : State) (b : List Byte) : (s.appendBlock b).mem = Memory.writeBytes s.mem (Buf.msg.addr s.mlen.toNat) b := rfl
@[simp] theorem appendBlock_eng (s : State) (b : List Byte) : (s.appendBlock b).eng = s.eng := rfl
@[simp] theorem appendBlock_chan (s : State) (b : List Byte) : (s.appendBlock b).chan = s.chan := rfl
@[simp] theorem appendBlock_clock (s : State) (b : List Byte) : (s.appendBlock b).clock = s.clock := rfl
@[simp] theorem appendBlock_agenda (s : State) (b : List Byte) : (s.appendBlock b).agenda = s.agenda := rfl
@[simp] theorem appendBlock_reply (s : State) (b : List Byte) : (s.appendBlock b).reply = s.reply := rfl

/-! ### `finishTransaction` -/

@[simp] theorem finishTransaction_cfg (s : State) : (finishTransaction s).cfg = s.cfg := rfl
@[simp] theorem finishTransaction_status (s : State) : (finishTransaction s).status = setBusy false (setTxres (txResult s) s.status) := rfl
@[simp] theorem finishTransaction_opa (s : State) : (finishTransaction s).opa = s.opa := rfl
@[simp] theorem finishTransaction_opb (s : State) : (finishTransaction s).opb = s.opb := rfl
@[simp] theorem finishTransaction_resa (s : State) : (finishTransaction s).resa = s.resa := rfl
@[simp] theorem finishTransaction_resb (s : State) : (finishTransaction s).resb = s.resb := rfl
@[simp] theorem finishTransaction_mlen (s : State) : (finishTransaction s).mlen = s.mlen := rfl
@[simp] theorem finishTransaction_dlen (s : State) : (finishTransaction s).dlen = s.dlen := rfl
@[simp] theorem finishTransaction_dcnt (s : State) : (finishTransaction s).dcnt = s.dcnt := rfl
@[simp] theorem finishTransaction_txlen (s : State) : (finishTransaction s).txlen = s.txlen := rfl
@[simp] theorem finishTransaction_timeout (s : State) : (finishTransaction s).timeout = s.timeout := rfl
@[simp] theorem finishTransaction_expect (s : State) : (finishTransaction s).expect = s.expect := rfl
@[simp] theorem finishTransaction_txcfg (s : State) : (finishTransaction s).txcfg = s.txcfg := rfl
@[simp] theorem finishTransaction_bitrate (s : State) : (finishTransaction s).bitrate = s.bitrate := rfl
@[simp] theorem finishTransaction_rxlen (s : State) : (finishTransaction s).rxlen = s.rxlen := rfl
@[simp] theorem finishTransaction_mcount (s : State) : (finishTransaction s).mcount = s.mcount := rfl
@[simp] theorem finishTransaction_txsent (s : State) : (finishTransaction s).txsent = s.txsent := rfl
@[simp] theorem finishTransaction_mem (s : State) : (finishTransaction s).mem = s.mem := rfl
@[simp] theorem finishTransaction_eng (s : State) : (finishTransaction s).eng = { s.eng with state := .idle } := rfl
@[simp] theorem finishTransaction_chan (s : State) : (finishTransaction s).chan = s.chan.close := rfl
@[simp] theorem finishTransaction_clock (s : State) : (finishTransaction s).clock = s.clock := rfl
@[simp] theorem finishTransaction_agenda (s : State) : (finishTransaction s).agenda = s.agenda := rfl
@[simp] theorem finishTransaction_reply (s : State) : (finishTransaction s).reply = s.reply := rfl

/-! ### `resetBlock` -/

@[simp] theorem resetBlock_cfg (s : State) : (resetBlock s).cfg = s.cfg := rfl
@[simp] theorem resetBlock_status (s : State) : (resetBlock s).status = 0 := rfl
@[simp] theorem resetBlock_opa (s : State) : (resetBlock s).opa = 0 := rfl
@[simp] theorem resetBlock_opb (s : State) : (resetBlock s).opb = 0 := rfl
@[simp] theorem resetBlock_resa (s : State) : (resetBlock s).resa = 0 := rfl
@[simp] theorem resetBlock_resb (s : State) : (resetBlock s).resb = 0 := rfl
@[simp] theorem resetBlock_mlen (s : State) : (resetBlock s).mlen = 0 := rfl
@[simp] theorem resetBlock_dlen (s : State) : (resetBlock s).dlen = 0 := rfl
@[simp] theorem resetBlock_dcnt (s : State) : (resetBlock s).dcnt = 0 := rfl
@[simp] theorem resetBlock_txlen (s : State) : (resetBlock s).txlen = 0 := rfl
@[simp] theorem resetBlock_timeout (s : State) : (resetBlock s).timeout = 0 := rfl
@[simp] theorem resetBlock_expect (s : State) : (resetBlock s).expect = 0 := rfl
@[simp] theorem resetBlock_txcfg (s : State) : (resetBlock s).txcfg = 0 := rfl
@[simp] theorem resetBlock_bitrate (s : State) : (resetBlock s).bitrate = 0 := rfl
@[simp] theorem resetBlock_rxlen (s : State) : (resetBlock s).rxlen = 0 := rfl
@[simp] theorem resetBlock_mcount (s : State) : (resetBlock s).mcount = 0 := rfl
@[simp] theorem resetBlock_txsent (s : State) : (resetBlock s).txsent = 0 := rfl
@[simp] theorem resetBlock_mem (s : State) : (resetBlock s).mem = [] := rfl
@[simp] theorem resetBlock_eng (s : State) : (resetBlock s).eng = Engine.reset := rfl
@[simp] theorem resetBlock_chan (s : State) : (resetBlock s).chan = if s.eng.state = .run then s.chan.close else s.chan := rfl
@[simp] theorem resetBlock_clock (s : State) : (resetBlock s).clock = s.clock := rfl
@[simp] theorem resetBlock_agenda (s : State) : (resetBlock s).agenda = s.agenda := rfl
@[simp] theorem resetBlock_reply (s : State) : (resetBlock s).reply = s.reply := rfl

/-! ### The channel -/

@[simp] theorem openAt_isOpen (c : Channel) (r : Word) : (c.openAt r).isOpen = true := rfl
@[simp] theorem openAt_inbound (c : Channel) (r : Word) : (c.openAt r).inbound = [] := rfl
@[simp] theorem openAt_rate (c : Channel) (r : Word) : (c.openAt r).rate = some r := rfl
@[simp] theorem openAt_outbound (c : Channel) (r : Word) : (c.openAt r).outbound = [] := rfl
@[simp] theorem chanWrite_isOpen (c : Channel) (u : Byte) : (c.write u).isOpen = c.isOpen := rfl
@[simp] theorem chanWrite_inbound (c : Channel) (u : Byte) : (c.write u).inbound = c.inbound := rfl
@[simp] theorem chanWrite_rate (c : Channel) (u : Byte) : (c.write u).rate = c.rate := rfl
@[simp] theorem chanWrite_outbound (c : Channel) (u : Byte) : (c.write u).outbound = c.outbound ++ [u] := rfl
@[simp] theorem close_isOpen (c : Channel) : c.close.isOpen = false := rfl
@[simp] theorem close_inbound (c : Channel) : c.close.inbound = [] := rfl
@[simp] theorem close_rate (c : Channel) : c.close.rate = c.rate := rfl
@[simp] theorem close_outbound (c : Channel) : c.close.outbound = c.outbound := rfl

/-- `chan_read` gives a byte exactly when `chan_available` counts one (43_transaction.md R209). -/
theorem read_isSome_iff_available (c : Channel) : c.read.isSome = true ↔ 0 < c.available := by
  unfold Channel.read Channel.available
  cases c.inbound <;> simp

@[simp] theorem deliver_isOpen (c : Channel) (b : Byte) : (c.deliver b).isOpen = c.isOpen := by
  unfold Channel.deliver; split <;> rfl
@[simp] theorem deliver_outbound (c : Channel) (b : Byte) : (c.deliver b).outbound = c.outbound := by
  unfold Channel.deliver; split <;> rfl
@[simp] theorem deliver_rate (c : Channel) (b : Byte) : (c.deliver b).rate = c.rate := by
  unfold Channel.deliver; split <;> rfl

/-! ### The clock -/

/-- A fixed increment is taken from the front of the list. -/
@[simp] theorem sample_cons (l d : Nat) (ds : List Nat) (n : Nat) :
    Clock.sample { last := l, pending := d :: ds, drawn := n } = { last := l + d, pending := ds, drawn := n } := rfl

/-- Samples are monotone (60_exceptions.md R256). -/
theorem le_sample_last (c : Clock) : c.last ≤ c.sample.last := by
  unfold Clock.sample
  split <;> simp

end Sys2Proof.Machine
end

