-- ==== Sys2Proof/Laws/Ops.lean ====
section
/-! SUPPORT. For each shared operation and for the step, one lemma that says once everything it can do. -/

namespace Sys2Proof.Machine

/-! ### Commands -/

/-- An add is refused for capacity, or refused for range, or appends its block. -/
theorem addField_cases (s : State) (val : Option Half) :
    (s.mlen.toNat + 8 > 24 ∧ addField s val = s.refuseAdd .capacity)
    ∨ (s.mlen.toNat + 8 ≤ 24 ∧ val = none ∧ addField s val = s.refuseAdd .range)
    ∨ ∃ v, s.mlen.toNat + 8 ≤ 24 ∧ val = some v
        ∧ addField s val =
          (s.appendBlock (fieldBlock (packName (opName s 0) (opName s 1) (opName s 2)) v)).accept
            (committedBytes (s.mlen + 8)) 0 := by
  unfold addField Config.blockDigits Config.frameDigits
  split
  · next h => exact .inl ⟨h, rfl⟩
  · next h =>
    cases val with
    | none => exact .inr (.inl ⟨by omega, rfl, rfl⟩)
    | some v => exact .inr (.inr ⟨v, by omega, rfl, rfl⟩)

/-- MSGDEC is turned away with ARG or decodes. -/
theorem execMsgdec_cases (s : State) :
    (s.cfg.dinCap < s.dlen.toNat ∧ execMsgdec s = .next (s.reject .arg))
    ∨ (s.dlen.toNat ≤ s.cfg.dinCap ∧ execMsgdec s = .next (decodeMessage s)) := by
  unfold execMsgdec
  split
  · next h => exact .inl ⟨h, rfl⟩
  · next h => exact .inr ⟨by omega, rfl⟩

/-- What TXEXEC's checks turn away. -/
theorem txArgumentsBad_iff (s : State) :
    txArgumentsBad s = true ↔
      s.cfg.txCap < s.txlen.toNat ∨ (txcfgMode s.txcfg = false ∧ s.txlen.toNat % 2 = 1)
        ∨ s.cfg.moffCap < max s.expect.toNat 1 := by
  unfold txArgumentsBad
  by_cases h1 : s.txlen.toNat > s.cfg.txCap
  · simp [h1]
  · by_cases h2 : txcfgMode s.txcfg = false ∧ s.txlen.toNat % 2 = 1
    · simp [h2]
    · rw [if_neg h1, if_neg (by simpa using h2)]
      simp only [decide_eq_true_eq]
      constructor
      · exact fun h => .inr (.inr h)
      · rintro (h | h | h)
        · exact absurd h h1
        · exact absurd h h2
        · exact h

/-- TXEXEC is turned away with ARG or starts the transaction. -/
theorem execTxexec_cases (s : State) :
    (txArgumentsBad s = true ∧ execTxexec s = .next (s.reject .arg))
    ∨ (txArgumentsBad s = false ∧ execTxexec s = .next (startTransaction s)) := by
  unfold execTxexec
  cases h : txArgumentsBad s
  · exact .inr ⟨rfl, by simp⟩
  · exact .inl ⟨rfl, by simp⟩

/-- Every command answers a next state, and what that state can be. -/
theorem exec_cases (i : Instr) (s : State) :
    ∃ t, exec i s = .next t ∧
      ((∃ ra rb, t = s.accept ra rb)
      ∨ (t = State.accept { s with mem := Memory.clear s.mem Buf.msg.base 24, mlen := 0 } 0 0)
      ∨ (∃ val, t = addField s val)
      ∨ (t = s.reject .arg)
      ∨ (s.dlen.toNat ≤ s.cfg.dinCap ∧ t = decodeMessage s)
      ∨ (txArgumentsBad s = false ∧ t = startTransaction s)) := by
  cases i with
  | msgclr => exact ⟨_, rfl, .inr (.inl rfl)⟩
  | msgaddi => exact ⟨_, rfl, .inr (.inr (.inl ⟨_, rfl⟩))⟩
  | msgaddf => exact ⟨_, rfl, .inr (.inr (.inl ⟨_, rfl⟩))⟩
  | msgadds => exact ⟨_, rfl, .inr (.inr (.inl ⟨_, rfl⟩))⟩
  | msgdec =>
    rcases execMsgdec_cases s with ⟨-, h⟩ | ⟨h', h⟩
    · exact ⟨_, h, .inr (.inr (.inr (.inl rfl)))⟩
    · exact ⟨_, h, .inr (.inr (.inr (.inr (.inl ⟨h', rfl⟩))))⟩
  | txexec =>
    rcases execTxexec_cases s with ⟨-, h⟩ | ⟨h', h⟩
    · exact ⟨_, h, .inr (.inr (.inr (.inl rfl)))⟩
    · exact ⟨_, h, .inr (.inr (.inr (.inr (.inr ⟨h', rfl⟩))))⟩
  | _ => exact ⟨_, rfl, .inl ⟨_, _, rfl⟩⟩

/-- An issued word faults while BUSY, is turned away as ILLEGAL, or runs the command it decodes to. -/
theorem issue_cases (w : Word) (s : State) :
    (statusBusy s.status = true ∧ issue w s = .fault .cmdWhileBusy)
    ∨ (statusBusy s.status = false ∧ (∃ e, decode w = .error e) ∧ issue w s = .next (s.reject .illegal))
    ∨ ∃ i, statusBusy s.status = false ∧ decode w = .ok i ∧ issue w s = exec i s := by
  unfold issue
  split
  · next h => exact .inl ⟨h, rfl⟩
  · next h =>
    have hb : statusBusy s.status = false := by simpa using h
    cases hd : decode w with
    | error e => exact .inr (.inl ⟨hb, ⟨e, rfl⟩, rfl⟩)
    | ok i => exact .inr (.inr ⟨i, hb, rfl, rfl⟩)

/-! ### The engine -/

/-- The send part sends the next unit, or there is none left and nothing changes. -/
theorem sendPart_cases (s : State) :
    (∃ u, s.eng.units[s.eng.k]? = some u
      ∧ sendPart s = { s with
          chan := s.chan.write u
          eng := { s.eng with k := s.eng.k + 1, deadline := s.clock.sample.last + s.eng.timeout }
          txsent := BitVec.ofNat 32 (s.eng.k + 1)
          clock := s.clock.sample })
    ∨ (s.eng.units.length ≤ s.eng.k ∧ sendPart s = s) := by
  unfold sendPart
  split
  · next h => exact .inr ⟨List.getElem?_eq_none_iff.mp h, rfl⟩
  · next u h => exact .inl ⟨u, h, rfl⟩

/-- The receive part reads nothing, or a marker, or another byte. -/
theorem receivePart_cases (s : State) :
    (s.chan.inbound = [] ∧ receivePart s = s)
    ∨ ∃ b rest, s.chan.inbound = b :: rest
      ∧ ((b = s.eng.marker ∧ receivePart s = receiveMarker { s with chan := { s.chan with inbound := rest } })
        ∨ (b ≠ s.eng.marker ∧ receivePart s = receiveData { s with chan := { s.chan with inbound := rest } } b)) := by
  unfold receivePart Channel.read
  cases h : s.chan.inbound with
  | nil => exact .inl ⟨rfl, rfl⟩
  | cons b rest =>
    refine .inr ⟨b, rest, rfl, ?_⟩
    by_cases hb : b = s.eng.marker
    · exact .inl ⟨hb, by simp [hb]⟩
    · exact .inr ⟨hb, by simp [hb]⟩

/-- An iteration finishes at a passed deadline, or goes on to the receive part. -/
theorem iterate_cases (s : State) :
    ((sendPart s).clock.sample.last > (sendPart s).eng.deadline
      ∧ iterate s = finishTransaction { sendPart s with clock := (sendPart s).clock.sample })
    ∨ ((sendPart s).clock.sample.last ≤ (sendPart s).eng.deadline
      ∧ iterate s = receivePart { sendPart s with clock := (sendPart s).clock.sample }) := by
  unfold iterate checkAndReceive
  simp only
  split
  · next h => exact .inl ⟨h, rfl⟩
  · next h => exact .inr ⟨by omega, rfl⟩

/-- A counted marker ends the loop, or the loop goes on. -/
theorem receiveMarker_cases (s : State) :
    let t := { s with
      mem := Memory.writeBytes s.mem (Buf.moff.addr (2 * s.mcount.toNat)) (offsetBytes s.rxlen)
      mcount := s.mcount + 1 }
    (s.eng.expect ≤ (s.mcount + 1).toNat ∧ receiveMarker s = finishTransaction t)
    ∨ ((s.mcount + 1).toNat < s.eng.expect ∧ receiveMarker s = t) := by
  unfold receiveMarker
  simp only
  split
  · next h => exact .inl ⟨h, rfl⟩
  · next h => exact .inr ⟨by omega, rfl⟩

/-- Another byte is appended, or dropped with RXOVF. -/
theorem receiveData_cases (s : State) (b : Byte) :
    (s.rxlen.toNat < s.cfg.rxCap
      ∧ receiveData s b =
        { s with mem := Memory.write s.mem (Buf.rx.addr s.rxlen.toNat) b, rxlen := s.rxlen + 1 })
    ∨ (s.cfg.rxCap ≤ s.rxlen.toNat ∧ receiveData s b = { s with status := setRxovf true s.status }) := by
  unfold receiveData
  split
  · next h => exact .inl ⟨h, rfl⟩
  · next h => exact .inr ⟨by omega, rfl⟩

/-- The engine's step iterates while RUN and does nothing while IDLE. -/
theorem engineStep_cases (s : State) :
    (s.eng.state = .run ∧ engineStep s = iterate s) ∨ (s.eng.state = .idle ∧ engineStep s = s) := by
  unfold engineStep
  cases s.eng.state
  · exact .inr ⟨rfl, rfl⟩
  · exact .inl ⟨rfl, rfl⟩

/-! ### The bus -/

/-- A register is found at its own address and at no other. -/
theorem regAt_eq_some (a : HostAddr) (r : Reg) : regAt a = some r ↔ a = r.addr := by
  constructor
  · intro h
    have := List.find?_some h
    simpa using (beq_iff_eq.mp this).symm
  · rintro rfl
    cases r <;> decide

/-- A buffer is found only at an address of its implemented part. -/
theorem bufAt_holds (cfg : Config) (a : Nat) (b : Buf) (h : bufAt cfg a = some b) :
    b.base ≤ a ∧ a < b.base + b.size cfg := by
  have := List.find?_some h
  simpa [Buf.holds] using this

/-- A host read answers a value, or is a bus error. -/
theorem hostRead_cases (s : State) (width : Nat) (addr : HostAddr) :
    (∃ v, readValue s width addr = some v
      ∧ hostRead s width addr = { s with reply := some { width := width, data := v } })
    ∨ (readValue s width addr = none
      ∧ hostRead s width addr = { s.busError with reply := some { width := width, data := 0 } }) := by
  unfold hostRead
  cases readValue s width addr with
  | none => exact .inr ⟨rfl, rfl⟩
  | some v => exact .inl ⟨v, rfl, rfl⟩

/-- A host write issues a command, stores into a register the host owns, stores into DIN or TX, or is a bus error. -/
theorem hostWrite_cases (s : State) (width : Nat) (addr : HostAddr) (v : Word) :
    (width = 32 ∧ addr = 0x000 ∧ hostWrite s width addr v = issue v s)
    ∨ (∃ r, width = 32 ∧ r.access = .rw ∧ addr = r.addr ∧ hostWrite s width addr v = .next (writeReg s r v))
    ∨ (∃ b, width = 8 ∧ bufAt s.cfg addr.toNat = some b ∧ (b = .din ∨ b = .tx)
      ∧ hostWrite s width addr v = .next { s with mem := Memory.write s.mem addr.toNat (v.extractLsb' 0 8) })
    ∨ hostWrite s width addr v = .next s.busError := by
  unfold hostWrite
  split
  · next h32 =>
    cases hr : regAt addr with
    | none => exact .inr (.inr (.inr rfl))
    | some r =>
      have ha := (regAt_eq_some _ _).mp hr
      simp only [hostRegWrite]
      cases hacc : r.access with
      | r => exact .inr (.inr (.inr rfl))
      | rw => exact .inr (.inl ⟨r, h32, hacc, ha, rfl⟩)
      | w =>
        have hc : r = .cmd := by cases r <;> simp [Reg.access] at hacc ⊢
        subst hc
        exact .inl ⟨h32, ha, rfl⟩
  · split
    · next h8 =>
      cases hb : bufAt s.cfg addr.toNat with
      | none => exact .inr (.inr (.inr rfl))
      | some b =>
        unfold hostBufWrite
        cases b
        · exact .inr (.inr (.inr rfl))
        · exact .inr (.inr (.inl ⟨.din, h8, rfl, .inl rfl, rfl⟩))
        · exact .inr (.inr (.inr rfl))
        · exact .inr (.inr (.inl ⟨.tx, h8, rfl, .inr rfl, rfl⟩))
        · exact .inr (.inr (.inr rfl))
        · exact .inr (.inr (.inr rfl))
    · exact .inr (.inr (.inr rfl))

/-- A 32-bit write at address 0 issues the written word. -/
theorem hostWrite_cmd (s : State) (w : Word) : hostWrite s 32 0x000 w = issue w s := rfl

/-- A 32-bit write of a register the host owns stores into it. -/
theorem hostWrite_reg (s : State) (r : Reg) (v : Word) (h : r.access = .rw) :
    hostWrite s 32 r.addr v = .next (writeReg s r v) := by
  unfold hostWrite
  rw [if_pos rfl, (regAt_eq_some r.addr r).mpr rfl]
  simp only [hostRegWrite, h]

/-! ### The step -/

/-- Which event a step performs, and on which state. -/
theorem step_cases (s : State) :
    (s.agenda = [] ∧ step s = .next (engineStep s))
    ∨ (∃ rest, s.agenda = .engine :: rest ∧ step s = .next (engineStep { s with agenda := rest }))
    ∨ (∃ b rest, s.agenda = .deliver b :: rest
      ∧ step s = .next { s with agenda := rest, chan := s.chan.deliver b })
    ∨ (∃ rest, s.agenda = .reset :: rest ∧ step s = .next (resetBlock { s with agenda := rest }))
    ∨ (∃ w a rest, s.agenda = .host (.read w a) :: rest ∧ step s = .next (hostRead { s with agenda := rest } w a))
    ∨ ∃ w a v rest, s.agenda = .host (.write w a v) :: rest ∧ step s = hostWrite { s with agenda := rest } w a v := by
  unfold step nextEvent
  rcases h : s.agenda with _ | ⟨e, rest⟩
  · exact .inl ⟨rfl, rfl⟩
  · cases e with
    | engine => exact .inr (.inl ⟨rest, rfl, rfl⟩)
    | deliver b => exact .inr (.inr (.inl ⟨b, rest, rfl, rfl⟩))
    | reset => exact .inr (.inr (.inr (.inl ⟨rest, rfl, rfl⟩)))
    | host a =>
      cases a with
      | read w a => exact .inr (.inr (.inr (.inr (.inl ⟨w, a, rest, rfl, rfl⟩))))
      | write w a v => exact .inr (.inr (.inr (.inr (.inr ⟨w, a, v, rest, rfl, rfl⟩))))

end Sys2Proof.Machine
end

