-- ==== Sys2Proof/Laws/PerInstr.lean ====
section
/-! SUPPORT. What holds of each command as syntax: its word has RSV clear and its opcode below 0x31 (30_encoding.md R90,
R94). -/

namespace Sys2Proof.Laws.WordShape

/-- The command's word has its reserved bits clear and is well-formed. -/
def Statement (i : Instr) : Prop :=
  rsvField (encode i) = 0#24 ∧ opcField (encode i) = opcodeOf i ∧ CommandWord.wellFormed (encode i) = true

theorem hexencB : Statement .hexencB := by unfold Statement; decide
theorem hexencH : Statement .hexencH := by unfold Statement; decide
theorem hexencW : Statement .hexencW := by unfold Statement; decide
theorem hexdig : Statement .hexdig := by unfold Statement; decide
theorem hexdecB : Statement .hexdecB := by unfold Statement; decide
theorem hexdecH : Statement .hexdecH := by unfold Statement; decide
theorem hexdecW : Statement .hexdecW := by unfold Statement; decide
theorem letenc : Statement .letenc := by unfold Statement; decide
theorem letdec : Statement .letdec := by unfold Statement; decide
theorem namepack : Statement .namepack := by unfold Statement; decide
theorem nameunpk : Statement .nameunpk := by unfold Statement; decide
theorem msgclr : Statement .msgclr := by unfold Statement; decide
theorem msgaddi : Statement .msgaddi := by unfold Statement; decide
theorem msgaddf : Statement .msgaddf := by unfold Statement; decide
theorem msgadds : Statement .msgadds := by unfold Statement; decide
theorem msgdec : Statement .msgdec := by unfold Statement; decide
theorem txexec : Statement .txexec := by unfold Statement; decide

end Sys2Proof.Laws.WordShape
end

