-- ==== Sys2Proof/Laws/Status.lean ====
section
/-! SUPPORT. Reading each field of STATUS after each field is written. -/

namespace Sys2Proof.Machine

/-- A bit of a word after a field is written: the field's own bits are the new ones, every other bit is kept. -/
theorem getLsbD_setField {n : Nat} (w : Word) (lo : Nat) (v : BitVec n) (k : Nat) (hk : k < 32) :
    (setField w lo v).getLsbD k = if lo ≤ k ∧ k < lo + n then v.getLsbD (k - lo) else w.getLsbD k := by
  unfold setField
  simp only [BitVec.getLsbD_or, BitVec.getLsbD_and, BitVec.getLsbD_not, BitVec.getLsbD_shiftLeft,
    BitVec.getLsbD_setWidth, BitVec.getLsbD_allOnes]
  by_cases h1 : lo ≤ k
  · by_cases h2 : k < lo + n
    · have h3 : k - lo < n := by omega
      have h4 : k - lo < 32 := by omega
      have h5 : ¬ k < lo := by omega
      simp [h1, h2, h3, h4, h5, hk]
    · have h3 : ¬ k - lo < n := by omega
      have h4 : v.getLsbD (k - lo) = false := BitVec.getLsbD_of_ge _ _ (by omega)
      simp [h1, h2, h3, h4, hk]
  · have : k < lo := by omega
    simp [h1, this, hk]

theorem getLsbD_setBusy (b : Bool) (w : Word) (k : Nat) :
    (setBusy b w).getLsbD k = if k = 0 then b else w.getLsbD k := by
  by_cases hk : k < 32
  · unfold setBusy
    rw [getLsbD_setField _ _ _ _ hk]
    by_cases h : k = 0
    · simp [h]
    · rw [if_neg (by omega), if_neg h]
  · rw [BitVec.getLsbD_of_ge _ _ (by omega), BitVec.getLsbD_of_ge _ _ (by omega), if_neg (by omega)]

theorem getLsbD_setBerr (w : Word) (k : Nat) : (setBerr w).getLsbD k = if k = 1 then true else w.getLsbD k := by
  by_cases hk : k < 32
  · unfold setBerr
    rw [getLsbD_setField _ _ _ _ hk]
    by_cases h : k = 1
    · simp [h]
    · rw [if_neg (by omega), if_neg h]
  · rw [BitVec.getLsbD_of_ge _ _ (by omega), BitVec.getLsbD_of_ge _ _ (by omega), if_neg (by omega)]

theorem getLsbD_setRxovf (b : Bool) (w : Word) (k : Nat) :
    (setRxovf b w).getLsbD k = if k = 2 then b else w.getLsbD k := by
  by_cases hk : k < 32
  · unfold setRxovf
    rw [getLsbD_setField _ _ _ _ hk]
    by_cases h : k = 2
    · simp [h]
    · rw [if_neg (by omega), if_neg h]
  · rw [BitVec.getLsbD_of_ge _ _ (by omega), BitVec.getLsbD_of_ge _ _ (by omega), if_neg (by omega)]

theorem getLsbD_setErr (e : ErrCode) (w : Word) (k : Nat) :
    (setErr e w).getLsbD k = if 4 ≤ k ∧ k < 8 then e.code.getLsbD (k - 4) else w.getLsbD k := by
  by_cases hk : k < 32
  · exact getLsbD_setField _ _ _ _ hk
  · rw [if_neg (by omega), BitVec.getLsbD_of_ge _ _ (by omega), BitVec.getLsbD_of_ge _ _ (by omega)]

theorem getLsbD_setTxres (r : TxRes) (w : Word) (k : Nat) :
    (setTxres r w).getLsbD k = if 8 ≤ k ∧ k < 10 then r.code.getLsbD (k - 8) else w.getLsbD k := by
  by_cases hk : k < 32
  · exact getLsbD_setField _ _ _ _ hk
  · rw [if_neg (by omega), BitVec.getLsbD_of_ge _ _ (by omega), BitVec.getLsbD_of_ge _ _ (by omega)]

/-- A field of two words agrees where their bits in its range do. -/
theorem getField_congr (w w' : Word) (lo n : Nat) (h : ∀ k, lo ≤ k → k < lo + n → w.getLsbD k = w'.getLsbD k) :
    getField w lo n = getField w' lo n := by
  apply BitVec.eq_of_getLsbD_eq
  intro i hi
  simp [getField, hi, h (lo + i) (by omega) (by omega)]

/-! ### ERR -/

@[simp] theorem statusErr_setErr (e : ErrCode) (w : Word) : statusErr (setErr e w) = e.code := by
  apply BitVec.eq_of_getLsbD_eq
  intro i hi
  simp only [statusErr, getField, BitVec.getLsbD_extractLsb', getLsbD_setErr]
  rw [if_pos (by omega)]
  simp [hi]

@[simp] theorem statusErr_setBusy (b : Bool) (w : Word) : statusErr (setBusy b w) = statusErr w :=
  getField_congr _ _ _ _ (fun k h _ => by rw [getLsbD_setBusy, if_neg (by omega)])

@[simp] theorem statusErr_setBerr (w : Word) : statusErr (setBerr w) = statusErr w :=
  getField_congr _ _ _ _ (fun k h _ => by rw [getLsbD_setBerr, if_neg (by omega)])

@[simp] theorem statusErr_setRxovf (b : Bool) (w : Word) : statusErr (setRxovf b w) = statusErr w :=
  getField_congr _ _ _ _ (fun k h _ => by rw [getLsbD_setRxovf, if_neg (by omega)])

@[simp] theorem statusErr_setTxres (r : TxRes) (w : Word) : statusErr (setTxres r w) = statusErr w :=
  getField_congr _ _ _ _ (fun k h _ => by rw [getLsbD_setTxres, if_neg (by omega)])

/-! ### TXRES -/

@[simp] theorem statusTxres_setTxres (r : TxRes) (w : Word) : statusTxres (setTxres r w) = r.code := by
  apply BitVec.eq_of_getLsbD_eq
  intro i hi
  simp only [statusTxres, getField, BitVec.getLsbD_extractLsb', getLsbD_setTxres]
  rw [if_pos (by omega)]
  simp [hi]

@[simp] theorem statusTxres_setBusy (b : Bool) (w : Word) : statusTxres (setBusy b w) = statusTxres w :=
  getField_congr _ _ _ _ (fun k h _ => by rw [getLsbD_setBusy, if_neg (by omega)])

@[simp] theorem statusTxres_setBerr (w : Word) : statusTxres (setBerr w) = statusTxres w :=
  getField_congr _ _ _ _ (fun k h _ => by rw [getLsbD_setBerr, if_neg (by omega)])

@[simp] theorem statusTxres_setRxovf (b : Bool) (w : Word) : statusTxres (setRxovf b w) = statusTxres w :=
  getField_congr _ _ _ _ (fun k h _ => by rw [getLsbD_setRxovf, if_neg (by omega)])

@[simp] theorem statusTxres_setErr (e : ErrCode) (w : Word) : statusTxres (setErr e w) = statusTxres w :=
  getField_congr _ _ _ _ (fun k h _ => by rw [getLsbD_setErr, if_neg (by omega)])

/-! ### BUSY, BERR, RXOVF -/

@[simp] theorem statusBusy_setBusy (b : Bool) (w : Word) : statusBusy (setBusy b w) = b := by
  unfold statusBusy; rw [getLsbD_setBusy]; rfl
@[simp] theorem statusBusy_setBerr (w : Word) : statusBusy (setBerr w) = statusBusy w := by
  unfold statusBusy; rw [getLsbD_setBerr]; rfl
@[simp] theorem statusBusy_setRxovf (b : Bool) (w : Word) : statusBusy (setRxovf b w) = statusBusy w := by
  unfold statusBusy; rw [getLsbD_setRxovf]; rfl
@[simp] theorem statusBusy_setErr (e : ErrCode) (w : Word) : statusBusy (setErr e w) = statusBusy w := by
  unfold statusBusy; rw [getLsbD_setErr]; rfl
@[simp] theorem statusBusy_setTxres (r : TxRes) (w : Word) : statusBusy (setTxres r w) = statusBusy w := by
  unfold statusBusy; rw [getLsbD_setTxres]; rfl

@[simp] theorem statusBerr_setBusy (b : Bool) (w : Word) : statusBerr (setBusy b w) = statusBerr w := by
  unfold statusBerr; rw [getLsbD_setBusy]; rfl
@[simp] theorem statusBerr_setBerr (w : Word) : statusBerr (setBerr w) = true := by
  unfold statusBerr; rw [getLsbD_setBerr]; rfl
@[simp] theorem statusBerr_setRxovf (b : Bool) (w : Word) : statusBerr (setRxovf b w) = statusBerr w := by
  unfold statusBerr; rw [getLsbD_setRxovf]; rfl
@[simp] theorem statusBerr_setErr (e : ErrCode) (w : Word) : statusBerr (setErr e w) = statusBerr w := by
  unfold statusBerr; rw [getLsbD_setErr]; rfl
@[simp] theorem statusBerr_setTxres (r : TxRes) (w : Word) : statusBerr (setTxres r w) = statusBerr w := by
  unfold statusBerr; rw [getLsbD_setTxres]; rfl

@[simp] theorem statusRxovf_setBusy (b : Bool) (w : Word) : statusRxovf (setBusy b w) = statusRxovf w := by
  unfold statusRxovf; rw [getLsbD_setBusy]; rfl
@[simp] theorem statusRxovf_setBerr (w : Word) : statusRxovf (setBerr w) = statusRxovf w := by
  unfold statusRxovf; rw [getLsbD_setBerr]; rfl
@[simp] theorem statusRxovf_setRxovf (b : Bool) (w : Word) : statusRxovf (setRxovf b w) = b := by
  unfold statusRxovf; rw [getLsbD_setRxovf]; rfl
@[simp] theorem statusRxovf_setErr (e : ErrCode) (w : Word) : statusRxovf (setErr e w) = statusRxovf w := by
  unfold statusRxovf; rw [getLsbD_setErr]; rfl
@[simp] theorem statusRxovf_setTxres (r : TxRes) (w : Word) : statusRxovf (setTxres r w) = statusRxovf w := by
  unfold statusRxovf; rw [getLsbD_setTxres]; rfl

end Sys2Proof.Machine
end

