-- ==== Sys2Proof/Tests/Slice0.lean ====
section
/-! SUPPORT. The model's own tests: decoding of words written out from 30_encoding.md R94, vectors of 95_test_vectors.md
section 2 (each theorem names its vector), the checks of WellFormed, and for every statement with hypotheses a concrete
state and operands that meet them. -/

namespace Sys2Proof.Tests.Slice0

open Sys2Proof Sys2Proof.Machine

/-! ## Helpers -/

/-- The next state, where there is one. -/
def nextOf (o : Host.Outcome State Fault Refusal) : Option State :=
  match o with
  | .next s => some s
  | _ => none

/-- The reset state with operands. -/
def withOps (a b : Word) : State := { State.reset with opa := a, opb := b }

/-- RESA, RESB and STATUS after a command. -/
def results (i : Instr) (s : State) : Option (Word × Word × Word) :=
  (nextOf (exec i s)).map (fun t => (t.resa, t.resb, t.status))

/-- STATUS, MLEN and the message after an add under the name "bat". -/
def added (i : Instr) (a : Word) : Option (Word × Word × List Byte) :=
  (nextOf (exec i (withOps a 0x00746162))).map (fun t => (t.status, t.mlen, encodedMessage t))

/-- ASCII bytes of a text. -/
def ascii (s : String) : List Byte := s.toList.map (fun c => BitVec.ofNat 8 c.toNat)

/-- The reset state with a frame in DIN and its length in DLEN. -/
def withFrame (cs : List Byte) : State :=
  { State.reset with mem := Memory.writeBytes [] 0x200 cs, dlen := BitVec.ofNat 32 cs.length }

/-- A running transaction with nothing to send: EXPECT, the deadline and TIMEOUT `d`, MARKER 0x3E, the inbound bytes and
the clock's increments as given. -/
def running (expect d : Nat) (inbound : List Byte) (pending : List Nat) : State :=
  { State.reset with
    status := 0x00000001
    eng := { state := .run, units := [], k := 0, deadline := d, timeout := d, expect := expect, marker := 0x3E }
    chan := { isOpen := true, inbound := inbound, rate := some 9600, outbound := [] }
    clock := { last := 0, pending := pending, drawn := 0 } }

/-- The same with one unit still to send. -/
def sending (d : Nat) (pending : List Nat) : State :=
  { running 1 d [] pending with
    eng := { state := .run, units := [0x41], k := 0, deadline := d, timeout := d, expect := 1, marker := 0x3E } }

/-- A running transaction whose response buffer, of one byte, is full. -/
def runningFull (inbound : List Byte) (pending : List Nat) : State :=
  { running 1 10 inbound pending with
    cfg := { Config.default with rxCap := 1 }, rxlen := 1, mem := [(0x800, 0x61)] }

/-! ## Decoding: every word written out from the opcode map -/

theorem test_decode_hexencB : decode 0b00000000000000000000000000000001#32 = .ok .hexencB := by decide
theorem test_decode_hexencH : decode 0b00000000000000000000000000000010#32 = .ok .hexencH := by decide
theorem test_decode_hexencW : decode 0b00000000000000000000000000000011#32 = .ok .hexencW := by decide
theorem test_decode_hexdig : decode 0b00000000000000000000000000000100#32 = .ok .hexdig := by decide
theorem test_decode_hexdecB : decode 0b00000000000000000000000000000101#32 = .ok .hexdecB := by decide
theorem test_decode_hexdecH : decode 0b00000000000000000000000000000110#32 = .ok .hexdecH := by decide
theorem test_decode_hexdecW : decode 0b00000000000000000000000000000111#32 = .ok .hexdecW := by decide
theorem test_decode_letenc : decode 0b00000000000000000000000000010000#32 = .ok .letenc := by decide
theorem test_decode_letdec : decode 0b00000000000000000000000000010001#32 = .ok .letdec := by decide
theorem test_decode_namepack : decode 0b00000000000000000000000000010010#32 = .ok .namepack := by decide
theorem test_decode_nameunpk : decode 0b00000000000000000000000000010011#32 = .ok .nameunpk := by decide
theorem test_decode_msgclr : decode 0b00000000000000000000000000100000#32 = .ok .msgclr := by decide
theorem test_decode_msgaddi : decode 0b00000000000000000000000000100001#32 = .ok .msgaddi := by decide
theorem test_decode_msgaddf : decode 0b00000000000000000000000000100010#32 = .ok .msgaddf := by decide
theorem test_decode_msgadds : decode 0b00000000000000000000000000100011#32 = .ok .msgadds := by decide
theorem test_decode_msgdec : decode 0b00000000000000000000000000100100#32 = .ok .msgdec := by decide
theorem test_decode_txexec : decode 0b00000000000000000000000000110000#32 = .ok .txexec := by decide

/-- The table's numbering and the decoder agree on a word, and bits above the row's are dropped. -/
theorem test_decodeTableWord : decodeTableWord 32 0x21 = some .msgaddi ∧ decodeTableWord 32 0x121 = none := by decide

/-- E-1, E-2, E-3, E-4. -/
theorem test_decode_illegal :
    decode 0x00000000 = .error .unassignedOpcode ∧ decode 0x00000008 = .error .unassignedOpcode
      ∧ decode 0x00000121 = .error .reservedBits ∧ decode 0x000000FF = .error .unassignedOpcode := by decide

/-! ## WellFormed refuses an ill-formed term for each check -/

theorem test_wellFormed_reservedClear :
    CommandWord.reservedClear 0x00000121 = false ∧ CommandWord.wellFormed 0x00000121 = false := by decide

theorem test_wellFormed_opcodeAssigned :
    [0x00, 0x08, 0x0F, 0x14, 0x1F, 0x25, 0x2F, 0x31, 0xFF].all (fun w => !CommandWord.wellFormed w) = true := by decide

theorem test_legal_default : Config.default.legal = true := by decide

theorem test_legal_dinCap :
    Config.legal { Config.default with dinCap := 0 } = false ∧ Config.legal { Config.default with dinCap := 20 } = false
      ∧ Config.legal { Config.default with dinCap := 520 } = false := by decide

theorem test_legal_txCap :
    Config.legal { Config.default with txCap := 1 } = false ∧ Config.legal { Config.default with txCap := 513 } = false := by
  decide

theorem test_legal_rxCap :
    Config.legal { Config.default with rxCap := 0 } = false ∧ Config.legal { Config.default with rxCap := 513 } = false := by
  decide

theorem test_legal_moffCap :
    Config.legal { Config.default with moffCap := 0 } = false
      ∧ Config.legal { Config.default with moffCap := 129 } = false := by decide

/-! ## Commands -/

/-- H-3. -/
theorem test_hexencB : results .hexencB (withOps 0x0000003E 0) = some (0x00006533, 0, 0) := by decide
/-- H-5: OPA[31:8] ignored. -/
theorem test_hexencB_high_bits : results .hexencB (withOps 0x1234FF80 0) = some (0x00003038, 0, 0) := by decide
/-- H-8: low byte first. -/
theorem test_hexencH : results .hexencH (withOps 0xABCD1234 0) = some (0x32313433, 0, 0) := by decide
/-- H-9. -/
theorem test_hexencW : results .hexencW (withOps 0x12345678 0) = some (0x36353837, 0x32313433, 0) := by decide
/-- H-18, H-19. -/
theorem test_hexdig_upper :
    results .hexdig (withOps 0x46 0) = some (15, 1, 0)
      ∧ results .hexdig { withOps 0x46 0 with cfg := { Config.default with hexUpper := false } } = some (0, 0, 0) := by
  decide
/-- H-20: an invalid character is no error. -/
theorem test_hexdig_invalid : results .hexdig (withOps 0x67 0) = some (0, 0, 0) := by decide
/-- H-26. -/
theorem test_hexdecB : results .hexdecB (withOps 0x00006730 0) = some (0, 0b10, 0) := by decide
/-- H-29. -/
theorem test_hexdecH : results .hexdecH (withOps 0x34673231 0) = some (0x00000412, 0b0100, 0) := by decide
/-- H-30. -/
theorem test_hexdecW : results .hexdecW (withOps 0x36353837 0x32313433) = some (0x12345678, 0, 0) := by decide
/-- H-32. -/
theorem test_hexdecW_mask : results .hexdecW (withOps 0x30303078 0x79303030) = some (0, 0x81, 0) := by decide
/-- N-4, N-6. -/
theorem test_letenc :
    results .letenc (withOps 0x5A 0) = some (26, 0, 0) ∧ results .letenc (withOps 0x34 0) = some (31, 0, 0) := by decide
/-- N-9: the bytes next to the ranges. -/
theorem test_letenc_sentinel :
    [0x20, 0x00, 0x40, 0x5B, 0x60, 0x7B, 0x80, 0xFF, 0x35, 0x2F].all
      (fun c => results .letenc (withOps c 0) == some (0, 0, 0)) = true := by decide
/-- N-13, N-14. -/
theorem test_letdec :
    results .letdec (withOps 26 0) = some (0x7A, 0, 0) ∧ results .letdec (withOps 27 0) = some (0x30, 0, 0) := by decide
/-- N-17: OPA[31:5] ignored. -/
theorem test_letdec_high_bits : results .letdec (withOps 0xFFFFFFE1 0) = some (0x61, 0, 0) := by decide
/-- N-18. -/
theorem test_namepack : results .namepack (withOps 0 0x00706D74) = some (0x000051B0, 0, 0) := by decide
/-- N-25: an unencodable character keeps its place. -/
theorem test_namepack_gap : results .namepack (withOps 0 0x00703974) = some (0x00005010, 0, 0) := by decide
/-- N-30: bit 15 ignored. -/
theorem test_nameunpk : results .nameunpk (withOps 0x0000D1B0 0) = some (0x03706D74, 0, 0) := by decide
/-- N-32: a slot after a null one keeps its letter, and the length stops before it. -/
theorem test_nameunpk_gap : results .nameunpk (withOps 0x00005010 0) = some (0x01700074, 0, 0) := by decide
/-- M-32. -/
theorem test_msgclr :
    (nextOf (exec .msgclr { State.reset with mlen := 8, mem := Memory.writeBytes [] 0x100 (ascii "34080000") })).map
      (fun t => (t.mem, t.mlen, t.resa)) = some ([], 0, 0) := by decide
/-- M-5: a negative value. -/
theorem test_msgaddi : added .msgaddi 0xFFFFFFD3 = some (0, 8, ascii "34083efe") := by decide
/-- M-8, M-9. -/
theorem test_msgaddi_range :
    added .msgaddi 3277 = some (0x30, 0, []) ∧ added .msgaddi 0xFFFFF333 = some (0x30, 0, []) := by decide
/-- M-11 (4.1 rounds to 41 in binary32) and M-17 (truncation toward zero), with the reference SCALE10F. -/
theorem test_msgaddf :
    added .msgaddf 0x40833333 = some (0, 8, ascii "34082900") ∧ added .msgaddf 0xBE19999A = some (0, 8, ascii "3408ffff") := by
  decide
/-- M-20, M-21, M-22, M-24. -/
theorem test_msgaddf_range :
    added .msgaddf 0x454CCB33 = some (0, 8, ascii "3408ff7f") ∧ added .msgaddf 0x454CCCCD = some (0x30, 0, [])
      ∧ added .msgaddf 0xC54CCCCD = some (0, 8, ascii "34080080") ∧ added .msgaddf 0x7FC00000 = some (0x30, 0, []) := by
  decide
/-- M-28. -/
theorem test_msgadds : added .msgadds 0x00636261 = some (0, 8, ascii "34084304") := by decide
/-- M-30. -/
theorem test_msgadds_capacity :
    (nextOf (exec .msgadds { withOps 0x636261 0x746162 with mlen := 24 })).map (fun t => (t.status, t.resa, t.mlen))
      = some (0x20, 12, 24) := by decide
/-- M-37: the tail is dropped and its length reported. -/
theorem test_msgdec :
    (nextOf (exec .msgdec (withFrame (ascii "b051eb0034089a01abc")))).map
      (fun t => (t.dcnt, t.resb, Memory.readBytes t.mem 0x408 9)) =
    some (2, 3, [0x62, 0x61, 0x74, 0x03, 0x9A, 0x01, 0x00, 0x00, 0x00]) := by decide
/-- M-44. -/
theorem test_msgdec_arg :
    (nextOf (exec .msgdec { withFrame (ascii "b051eb00") with dlen := 25 })).map (fun t => (t.status, t.dcnt, t.resa))
      = some (0x40, 0, 0) := by decide
/-- The example of 43_transaction.md R200, at clock 0. -/
theorem test_txexec :
    (nextOf (exec .txexec { State.reset with
        mem := Memory.writeBytes [] 0x600 (ascii "0102"), txlen := 4, expect := 1, timeout := 100, txcfg := 0x3E00,
        clock := { last := 0, pending := [7], drawn := 0 } })).map
      (fun t => (t.eng.units, t.eng.deadline, t.eng.marker, t.status, t.chan.isOpen)) =
    some ([0x01, 0x02], 107, 0x3E, 1, true) := by decide
/-- T-12, T-14. -/
theorem test_txexec_arg :
    (nextOf (exec .txexec { State.reset with txlen := 3 })).map (fun t => (t.status, t.eng.state)) = some (0x40, .idle)
      ∧ (nextOf (exec .txexec { State.reset with expect := 9 })).map (fun t => (t.status, t.eng.state)) = some (0x40, .idle) := by
  decide

/-! ## The engine -/

/-- T-8: a sample equal to the deadline has not passed it, so the marker is read. -/
theorem test_iterate_at_deadline :
    (fun t => (t.status, t.mcount, t.eng.state)) (iterate (running 1 10 [0x3E] [10])) = (0x00000100, 1, .idle) := by decide
/-- T-9: the deadline ends the loop before the marker is read. -/
theorem test_iterate_past_deadline :
    (fun t => (t.status, t.mcount, t.eng.state)) (iterate (running 1 10 [0x3E] [11])) = (0x00000200, 0, .idle) := by decide
/-- T-7's third step: a byte beyond RX_CAP is discarded and RXOVF set. -/
theorem test_iterate_overflow :
    (fun t => (t.status, t.rxlen, t.mem)) (iterate (runningFull [0x63] [1])) = (0x00000005, 1, [(0x800, 0x61)]) := by decide
/-- T-1's first step, moved to clock 0: the unit is sent and the deadline moved. -/
theorem test_iterate_send :
    (fun t => (t.txsent, t.eng.deadline, t.chan.outbound, t.eng.state)) (iterate (sending 10 [3, 0]))
      = (1, 13, [0x41], .run) := by decide

/-! ## The bus -/

/-- E-5, E-15: CMD reads 0 without a bus error; TXCFG keeps its fields. -/
theorem test_bus_registers :
    (hostRead State.reset 32 0x000).reply = some { width := 32, data := 0 }
      ∧ (hostRead State.reset 32 0x000).status = 0
      ∧ (nextOf (hostWrite State.reset 32 0x030 0xFFFFFFFF)).map (fun t => t.txcfg) = some 0x0000FF01 := by decide
/-- E-7, E-8, E-9, E-11, E-13, E-14: reads that are bus errors. -/
theorem test_bus_read_errors :
    [(32, 0x044), (32, 0x00A), (8, 0x004), (8, 0x218), (8, 0xA10), (8, 0xB00)].all
      (fun a => (hostRead State.reset a.1 a.2).status == 2
        && (hostRead State.reset a.1 a.2).reply == some { width := a.1, data := 0 }) = true := by decide
/-- E-6, E-10, E-12: writes that are bus errors. -/
theorem test_bus_write_errors :
    [(32, 0x010), (8, 0x100), (32, 0x200)].all
      (fun a => (nextOf (hostWrite State.reset a.1 a.2 1)).map (fun t => (t.status, t.resa, t.mem)) == some (2, 0, [])) = true := by
  decide
/-- A write of 0x00 to a listed byte removes its cell. -/
theorem test_memory_canonical :
    Memory.write (Memory.write (Memory.write [] 5 1) 3 2) 5 0 = [(3, 2)] := by decide

/-! ## The step -/

/-- A placed word runs as the first command after reset. -/
theorem test_withFetchWord :
    (nextOf (step (State.reset.withFetchWord 32 0x01))).map (fun t => (t.resa, t.agenda)) = some (0x00003030, []) := by decide

/-- render vectors: -5 and -3276.8 (42_message.md R173). -/
theorem test_render : render (-5) = ascii "-0.5" ∧ render (-32768) = ascii "-3276.8" := by decide

/-- L1-J but for its braces: the first entry of the decoded text. -/
theorem test_decodedText :
    (nextOf (exec .msgdec (withFrame (ascii "43047b003a63d3ff")))).map
      (fun t => ((decodedText t).drop 1).take 20) = some (ascii "\"abc\":12.3,\"xyz\":-4.") := by decide

/-- L3-P1's first line and pseudo-instruction as bus accesses. -/
theorem test_script :
    (ScriptLine.wrc .opb (ascii "tmp")).expand = [.host (.write 32 0x00C 0x00706D74)]
      ∧ (ScriptLine.cmd .msgclr).expand = [.host (.write 32 0x000 0x00000020)] := by decide

/-! ## The hypotheses of the statements can be met -/

/-- The invariant of a state with an open channel does not depend on the bytes still to arrive or on the clock's next
increments. -/
theorem inv_of_streams (s : State) (h : s.Inv) (ho : s.chan.isOpen = true) (inbound : List Byte) (pending : List Nat) :
    ({ s with chan := { s.chan with inbound := inbound }, clock := { s.clock with pending := pending } }).Inv :=
  { legal := h.legal, memory := h.memory, status := h.status, frame := h.frame, decode := h.decode,
    channel := ⟨h.channel.1, fun hc => absurd (ho.symm.trans hc) (by decide), h.channel.2.2⟩,
    response := h.response, engine := h.engine, result := h.result }

/-- The running state of the witnesses is a legal one. -/
theorem running_inv (inbound : List Byte) (pending : List Nat) : (running 1 10 inbound pending).Inv := by
  refine inv_of_streams (running 1 10 [] []) ?_ rfl inbound pending
  refine ⟨by decide, ⟨wf_nil, ?_⟩, ?_, ?_, ?_, ?_, ?_, ?_, ?_⟩
  · intro c hc; cases hc
  · exact ⟨by decide, by decide, by decide, by decide, fun _ => by decide, by decide⟩
  · exact ⟨.inl rfl, fun j hj => absurd hj (by simp [running, State.reset]), fun _ _ _ => rfl⟩
  · exact ⟨by decide, fun _ _ _ => rfl⟩
  · exact ⟨by decide, by decide, by decide⟩
  · refine ⟨by decide, ?_, fun _ _ _ => rfl, by decide, by decide, ?_, ?_, fun _ _ _ => rfl⟩
    all_goals (intro j hj; simp [running, State.reset] at hj)
  · exact ⟨by rfl, by decide, by decide, fun _ => by decide, fun _ => by decide⟩
  · exact ⟨fun h => absurd h (by decide), fun h => absurd h (by decide), fun h => absurd h (by decide)⟩

/-- So is the one whose response buffer is full. -/
theorem runningFull_inv (inbound : List Byte) (pending : List Nat) : (runningFull inbound pending).Inv := by
  refine inv_of_streams (runningFull [] []) ?_ rfl inbound pending
  have hread : ∀ a, a ≠ 0x800 → Memory.read (runningFull [] []).mem a = 0 := by
    intro a ha
    simp only [runningFull, read_cons, Memory.read]
    split
    · exact absurd (by assumption) (by simpa using fun h => ha (by omega))
    · rfl
  refine ⟨by decide, ⟨by decide, ?_⟩, ?_, ?_, ?_, ?_, ?_, ?_, ?_⟩
  · intro c hc
    simp only [runningFull, List.mem_singleton] at hc
    subst hc
    decide
  · exact ⟨by decide, by decide, by decide, by decide, fun _ => by decide, by decide⟩
  · exact ⟨.inl rfl, fun j hj => absurd hj (by simp [runningFull, running, State.reset]), fun j _ hj => hread _ (by omega)⟩
  · refine ⟨by decide, fun j _ hj => hread _ ?_⟩
    have hc : (runningFull [] []).cfg.doutCap = 3 := by rfl
    rw [hc] at hj
    omega
  · exact ⟨by decide, by decide, by decide⟩
  · refine ⟨by decide, by decide, fun j h1 h2 => ?_, by decide, by decide, ?_, ?_, fun j _ hj => hread _ (by omega)⟩
    · have h3 : 1 ≤ j := h1
      have h4 : j < 1 := h2
      omega
    · intro j hj; simp [runningFull, running, State.reset] at hj
    · intro j hj; simp [runningFull, running, State.reset] at hj
  · exact ⟨by rfl, by decide, by decide, fun _ => by decide, fun _ => by decide⟩
  · exact ⟨fun h => absurd h (by decide), fun h => absurd h (by decide), fun h => absurd h (by decide)⟩

/-- IllegalWordWritesOnlyErr: the RSV clause and both ends of every range of opcodes. -/
theorem witness_IllegalWord :
    statusBusy State.reset.status = false ∧ (0x00000121 : Word).extractLsb' 8 24 ≠ 0#24
      ∧ ([0x00, 0x08, 0x0F, 0x14, 0x1F, 0x25, 0x2F, 0x31, 0xFF] : List Word).all (fun w =>
          let opc := (w.extractLsb' 0 8).toNat
          opc == 0x00 || (0x08 ≤ opc && opc ≤ 0x0F) || (0x14 ≤ opc && opc ≤ 0x1F) || (0x25 ≤ opc && opc ≤ 0x2F)
            || 0x31 ≤ opc) = true := by decide

/-- StepRunsTheDecodedCommand: a word on the agenda. -/
theorem witness_StepRuns :
    ({ State.reset with agenda := [.host (.write 32 0x000 0x30)] }).agenda = [.host (.write 32 0x000 0x30)]
      ∧ statusBusy State.reset.status = false ∧ decode 0x30 = .ok .txexec := by decide

/-- FaultsExactlyOnCmdWhileBusy: a state that breaks the duty. -/
theorem witness_BreaksDuty : ({ running 1 10 [] [] with agenda := [.host (.write 32 0x000 0x01)] }).breaksDuty :=
  ⟨by decide, 0x01, [], rfl⟩

/-- StepKeepsTheInvariant, StepKeepsMemoryCanonical and ClockNeverRunsBackwards: a running state with a next one. -/
theorem witness_StepKeeps :
    (running 1 10 [0x3E] [1]).Inv ∧ Memory.wf (running 1 10 [0x3E] [1]).mem
      ∧ ∃ t, step (running 1 10 [0x3E] [1]) = .next t := ⟨running_inv _ _, wf_nil, _, rfl⟩

/-- BusErrorFlagFallsOnlyAtReset: a state with BERR set that steps on. -/
theorem witness_BusErrorFlag :
    statusBerr ({ State.reset with status := 2 }).status = true ∧ ∃ t, step { State.reset with status := 2 } = .next t :=
  ⟨by decide, _, rfl⟩

/-- BlockNeverWritesHostRegisters: a step that changes OPA. -/
theorem witness_HostRegisterChange :
    (nextOf (step { State.reset with agenda := [.host (.write 32 0x008 5)] })).map (fun t => readReg t .opa) = some 5
      ∧ readReg State.reset .opa = 0 ∧ Reg.opa ∈ hostOwned := by decide

/-- OnlyTheEngineOrResetEndsATransaction: a host access and a delivery while BUSY. -/
theorem witness_BusyAccess :
    statusBusy (running 1 10 [] []).status = true
      ∧ (∃ t, step { running 1 10 [] [] with agenda := [.host (.write 32 0x008 5)] } = .next t)
      ∧ ∃ t, step { running 1 10 [] [] with agenda := [.deliver 0x3E] } = .next t := ⟨by decide, ⟨_, rfl⟩, ⟨_, rfl⟩⟩

/-- IdleMachineWaits, and the agendas of DeliveryAppendsToTheOpenChannel, ResetClearsTheBlock (a running and an idle engine)
and ResetLeavesTheEnvironment. -/
theorem witness_Agendas :
    State.reset.agenda = [] ∧ State.reset.eng.state = .idle
      ∧ ({ running 1 10 [] [] with agenda := [.deliver 0x3E] }).agenda = .deliver 0x3E :: []
      ∧ ({ running 1 10 [] [] with agenda := [.reset] }).agenda = .reset :: []
      ∧ ({ running 1 10 [] [] with agenda := [.reset] }).eng.state = .run
      ∧ ({ State.reset with agenda := [.reset] }).agenda = .reset :: [] := by decide

/-- BufferReadAnswersWithoutSideEffect and BufferWriteStoresTheByte: the last byte of every buffer. -/
theorem witness_BufferBounds :
    Config.default.legal = true ∧ 23 < Buf.msg.size Config.default ∧ 23 < Buf.din.size Config.default
      ∧ 23 < Buf.dout.size Config.default ∧ 63 < Buf.tx.size Config.default ∧ 63 < Buf.rx.size Config.default
      ∧ 15 < Buf.moff.size Config.default := by decide

/-- RegisterWriteStoresTheValue, RunningTransactionIgnoresHostWrites: every register of the list. -/
theorem witness_HostOwned : hostOwned.all (fun r => r.access == .rw) = true ∧ Reg.txcfg ∈ hostOwned := by decide

/-- UnadmittedAccessIsABusError: a reserved address, a misaligned one, a wrong width, a byte beyond an implemented part, a
read-only register and a read-only buffer. -/
theorem witness_Unadmitted :
    ¬ HostAccess.admitted Config.default (.read 32 0x044) ∧ ¬ HostAccess.admitted Config.default (.read 32 0x00A)
      ∧ ¬ HostAccess.admitted Config.default (.read 16 0x004) ∧ ¬ HostAccess.admitted Config.default (.read 8 0x218)
      ∧ ¬ HostAccess.admitted Config.default (.write 32 0x010 1) ∧ ¬ HostAccess.admitted Config.default (.write 8 0x100 1) := by
  refine ⟨?_, ?_, ?_, ?_, ?_, ?_⟩
  · rintro (h | ⟨h, _⟩) <;> revert h <;> decide
  · rintro (h | ⟨h, _⟩) <;> revert h <;> decide
  · rintro (h | ⟨h, _⟩) <;> revert h <;> decide
  · rintro (h | ⟨_, b, h1, h2⟩)
    · revert h; decide
    · cases b <;> revert h1 h2 <;> decide
  · rintro (h | ⟨h, _⟩) <;> revert h <;> decide
  · rintro (⟨h, _⟩ | ⟨_, b, hb, h1, h2⟩)
    · revert h; decide
    · rcases hb with rfl | rfl <;> revert h1 h2 <;> decide

/-- NamesSurvivePackAndUnpack: three encodable characters. -/
theorem witness_Encodable : slotOf 0x74 ≠ 0x00 ∧ slotOf 0x5A ≠ 0x00 ∧ slotOf 0x34 ≠ 0x00 := by decide

/-- MsgaddiAppendsTenTimesTheInteger: each clause at its boundary, on a full message and on one with a block left. -/
theorem witness_Msgaddi :
    ({ withOps 41 0 with mlen := 24 }).mlen.toNat + 8 > 24
      ∧ ({ withOps 3277 0 with mlen := 16 }).mlen.toNat + 8 ≤ 24 ∧ 3276 < ({ withOps 3277 0 with mlen := 16 }).opa.toInt
      ∧ (withOps 0xFFFFF333 0).mlen.toNat + 8 ≤ 24 ∧ (withOps 0xFFFFF333 0).opa.toInt < -3276
      ∧ (withOps 3276 0).mlen.toNat + 8 ≤ 24 ∧ -3276 ≤ (withOps 3276 0).opa.toInt ∧ (withOps 3276 0).opa.toInt ≤ 3276
      ∧ -3276 ≤ (withOps 0xFFFFF334 0).opa.toInt ∧ (withOps 0xFFFFF334 0).opa.toInt ≤ 3276 := by decide

/-- MsgaddfAppendsTheScaledFloat: 23.5 is in range and a NaN is not, with MLEN at the last value at which a block fits, and
at the first at which none does. -/
theorem witness_Msgaddf :
    ({ withOps 0x41BC0000 0 with mlen := 16 }).mlen.toNat + 8 ≤ 24
      ∧ scale10f (withOps 0x41BC0000 0).cfg.scale10f ({ withOps 0x41BC0000 0 with mlen := 16 }).opa = some 235
      ∧ ({ withOps 0x7FC00000 0 with mlen := 16 }).mlen.toNat + 8 ≤ 24
      ∧ scale10f (withOps 0x7FC00000 0).cfg.scale10f ({ withOps 0x7FC00000 0 with mlen := 16 }).opa = none
      ∧ ({ State.reset with mlen := 17 }).mlen.toNat + 8 > 24 := by decide

/-- MsgaddsAppendsThePackedString: the last MLEN at which a block fits, and the first at which none does. -/
theorem witness_Msgadds :
    ({ State.reset with mlen := 16 }).mlen.toNat + 8 ≤ 24 ∧ ({ State.reset with mlen := 17 }).mlen.toNat + 8 > 24 := by decide

/-- FloatReferenceRoundsThenTruncates: both branches of its condition. -/
theorem witness_FloatClasses :
    ((0x7FC00000 : Word).extractLsb' 23 8).toNat = 255 ∧ ((0x41BC0000 : Word).extractLsb' 23 8).toNat ≠ 255
      ∧ ((0x00000001 : Word).extractLsb' 23 8).toNat = 0 := by decide

/-- FourthFieldIsRefused, MessageSurvivesEncodeThenDecode: L3-P1's three adds, and a fourth. -/
theorem witness_ThreeAdds :
    State.reset.mlen = 0
      ∧ (AddStep.value Config.default { instr := .msgaddf, opa := 0x41BC0000, opb := 0x00706D74 }).isSome
      ∧ (AddStep.value Config.default { instr := .msgaddi, opa := 41, opb := 0x00746162 }).isSome
      ∧ (AddStep.value Config.default { instr := .msgadds, opa := 0x6E6F, opb := 0x00617473 }).isSome
      ∧ 8 * 3 ≤ Config.default.dinCap := by decide

/-- MsgdecDecodesEveryWholeBlock: DLEN at DIN_CAP and one above. -/
theorem witness_Msgdec :
    ({ State.reset with dlen := 24 }).dlen.toNat ≤ ({ State.reset with dlen := 24 }).cfg.dinCap
      ∧ ({ State.reset with dlen := 25 }).dlen.toNat > ({ State.reset with dlen := 25 }).cfg.dinCap := by decide

/-- TxexecRejectsBadArguments: each clause just beyond its bound. -/
theorem witness_TxexecBad :
    ({ State.reset with txlen := 65 }).txlen.toNat > State.reset.cfg.txCap
      ∧ ({ State.reset with txlen := 3 }).txcfg.getLsbD 0 = false ∧ ({ State.reset with txlen := 3 }).txlen.toNat % 2 = 1
      ∧ max ({ State.reset with expect := 9 }).expect.toNat 1 > State.reset.cfg.moffCap := by decide

/-- A state with every argument of TXEXEC at its bound. -/
def atBounds (txlen txcfg expect : Word) : State := { State.reset with txlen := txlen, txcfg := txcfg, expect := expect }

/-- TxexecStartsTheTransaction: binary mode at the capacity, AT mode with an odd length, and EXPECT = 0. -/
theorem witness_TxexecGood :
    [atBounds 64 0 8, atBounds 63 1 8, atBounds 0 0 0].all (fun s =>
      s.txlen.toNat ≤ s.cfg.txCap && (s.txcfg.getLsbD 0 || s.txlen.toNat % 2 == 0) && max s.expect.toNat 1 ≤ s.cfg.moffCap)
      = true := by decide

/-- SendPartSendsOneUnit: a unit left, and none. -/
theorem witness_SendPart :
    (sending 10 []).eng.units[(sending 10 []).eng.k]? = some 0x41
      ∧ (running 1 10 [] []).eng.units.length ≤ (running 1 10 [] []).eng.k := by decide

/-- EngineStepIteratesWhileRunning: a RUN and an IDLE engine, each with its turn from the agenda and from an empty one. -/
theorem witness_EngineStep :
    ({ running 1 10 [] [] with agenda := [.engine, .reset] }).engineTurn [.reset] ∧ (running 1 10 [] []).engineTurn []
      ∧ (running 1 10 [] []).eng.state = .run
      ∧ ({ State.reset with agenda := [.engine, .reset] }).engineTurn [.reset] ∧ State.reset.engineTurn []
      ∧ State.reset.eng.state = .idle :=
  ⟨.inl rfl, .inr ⟨rfl, rfl⟩, rfl, .inl rfl, .inr ⟨rfl, rfl⟩, rfl⟩

/-- PassedDeadlineEndsTheLoopUnread: one tick beyond the deadline, with a byte available, by either turn. -/
theorem witness_PassedDeadline :
    (running 1 10 [0x3E] [11]).engineTurn [] ∧ ({ running 1 10 [0x3E] [11] with agenda := [.engine] }).engineTurn []
      ∧ (running 1 10 [0x3E] [11]).eng.state = .run
      ∧ (sendPart (running 1 10 [0x3E] [11])).clock.sample.last > (sendPart (running 1 10 [0x3E] [11])).eng.deadline
      ∧ (sendPart { running 1 10 [0x3E] [11] with agenda := [.engine] }).clock.sample.last
        > (sendPart { running 1 10 [0x3E] [11] with agenda := [.engine] }).eng.deadline :=
  ⟨.inr ⟨rfl, rfl⟩, .inl rfl, rfl, by decide, by decide⟩

/-- EmptyIterationChangesNothing: a sample equal to the deadline, with nothing to send, and with one unit. -/
theorem witness_EmptyIteration :
    (running 1 10 [] [10]).engineTurn [] ∧ (running 1 10 [] [10]).eng.state = .run
      ∧ (running 1 10 [] [10]).eng.units.length ≤ (running 1 10 [] [10]).eng.k
      ∧ (running 1 10 [] [10]).clock.sample.last ≤ (running 1 10 [] [10]).eng.deadline
      ∧ (running 1 10 [] [10]).chan.inbound = []
      ∧ ({ sending 10 [3, 10] with agenda := [.engine] }).engineTurn [] ∧ (sending 10 [3, 10]).eng.state = .run
      ∧ (sendPart { sending 10 [3, 10] with agenda := [.engine] }).clock.sample.last
        ≤ (sendPart { sending 10 [3, 10] with agenda := [.engine] }).eng.deadline
      ∧ (sending 10 [3, 10]).chan.inbound = [] :=
  ⟨.inr ⟨rfl, rfl⟩, rfl, by decide, by decide, rfl, .inl rfl, rfl, by decide, rfl⟩

/-- MarkerIsCountedAndNeverStored: a marker at the deadline. -/
theorem witness_Marker :
    (running 1 10 [0x3E] [10]).Inv ∧ (running 1 10 [0x3E] [10]).eng.state = .run
      ∧ (sendPart (running 1 10 [0x3E] [10])).clock.sample.last ≤ (sendPart (running 1 10 [0x3E] [10])).eng.deadline
      ∧ (running 1 10 [0x3E] [10]).chan.inbound = (running 1 10 [0x3E] [10]).eng.marker :: [] :=
  ⟨running_inv _ _, rfl, by decide, rfl⟩

/-- OtherByteIsAppendedOrDropped: another byte with room for it, and with RX full. -/
theorem witness_OtherByte :
    (running 1 10 [0x61] [10]).Inv ∧ (runningFull [0x61] [10]).Inv
      ∧ (running 1 10 [0x61] [10]).eng.state = .run ∧ (runningFull [0x61] [10]).eng.state = .run
      ∧ (sendPart (running 1 10 [0x61] [10])).clock.sample.last ≤ (sendPart (running 1 10 [0x61] [10])).eng.deadline
      ∧ (sendPart (runningFull [0x61] [10])).clock.sample.last ≤ (sendPart (runningFull [0x61] [10])).eng.deadline
      ∧ (0x61 : Byte) ≠ (running 1 10 [0x61] [10]).eng.marker
      ∧ (running 1 10 [0x61] [10]).rxlen.toNat < (running 1 10 [0x61] [10]).cfg.rxCap
      ∧ ¬ (runningFull [0x61] [10]).rxlen.toNat < (runningFull [0x61] [10]).cfg.rxCap :=
  ⟨running_inv _ _, runningFull_inv _ _, rfl, rfl, by decide, by decide, by decide, by decide, by decide⟩

/-- A waiting transaction with a byte unread, a host access, a delivery and engine steps to come. -/
def waitingBusy : State :=
  { running 1 50 [0x61] [10, 40, 0, 0] with
    agenda := [.engine, .host (.write 32 0x008 5), .deliver 0x62, .engine] }

/-- WaitingTransactionNeverFailsEarly, both clauses: the samples reach the deadline exactly. -/
theorem witness_Waiting :
    (running 1 50 [] [10, 40, 1]).eng.state = .run ∧ (running 1 50 [] [10, 40, 1]).agenda = []
      ∧ (running 1 50 [] [10, 40, 1]).chan.inbound = []
      ∧ (running 1 50 [] [10, 40, 1]).eng.units.length ≤ (running 1 50 [] [10, 40, 1]).eng.k
      ∧ 2 ≤ (running 1 50 [] [10, 40, 1]).clock.pending.length
      ∧ (running 1 50 [] [10, 40, 1]).clock.last + ((running 1 50 [] [10, 40, 1]).clock.pending.take 2).sum
        ≤ (running 1 50 [] [10, 40, 1]).eng.deadline
      ∧ waitingBusy.eng.state = .run ∧ waitingBusy.eng.units.length ≤ waitingBusy.eng.k
      ∧ 4 ≤ waitingBusy.clock.pending.length
      ∧ waitingBusy.clock.last + (waitingBusy.clock.pending.take 4).sum ≤ waitingBusy.eng.deadline
      ∧ waitingBusy.eng.marker ∉ waitingBusy.chan.inbound
      ∧ ∀ e ∈ waitingBusy.agenda, e ≠ .reset ∧ e ≠ .deliver waitingBusy.eng.marker ∧ ¬ e.writesCmd := by
  refine ⟨by decide, by decide, by decide, by decide, by decide, by decide, by decide, by decide, by decide, by decide,
    by decide, ?_⟩
  intro e he
  simp only [waitingBusy, List.mem_cons, List.not_mem_nil, or_false] at he
  rcases he with rfl | rfl | rfl | rfl <;>
    refine ⟨by decide, by decide, ?_⟩ <;> rintro ⟨w, h⟩ <;> simp at h

/-- TransactionEndsWhenTheClockGrows: one unit left, TIMEOUT 2, and exactly the increments the bound asks for. -/
theorem witness_ClockGrows :
    (sending 2 [1, 1, 1, 1, 1]).eng.state = .run ∧ (sending 2 [1, 1, 1, 1, 1]).agenda = []
      ∧ (sending 2 [1, 1, 1, 1, 1]).eng.deadline
        ≤ (sending 2 [1, 1, 1, 1, 1]).clock.last + (sending 2 [1, 1, 1, 1, 1]).eng.timeout
      ∧ (∀ d ∈ (sending 2 [1, 1, 1, 1, 1]).clock.pending, 1 ≤ d)
      ∧ 2 * ((sending 2 [1, 1, 1, 1, 1]).eng.units.length - (sending 2 [1, 1, 1, 1, 1]).eng.k)
          + (sending 2 [1, 1, 1, 1, 1]).eng.timeout + 1
        ≤ (sending 2 [1, 1, 1, 1, 1]).clock.pending.length := by decide

end Sys2Proof.Tests.Slice0
end

section
/-! What a step that answers a next state has done, once for every claim about the step; and what the block itself, by a
command or by an iteration, never touches: the registers the host owns and BERR (10_state.md R21, R23, R26-R29). -/

namespace Sys2Proof.Machine

/-! ## What a step has done -/

/-- What a step that answers a next state has done, one constructor per kind of step (20_memory.md R61-R64, R70,
30_encoding.md R91). `rest` is the agenda after the event is taken off. -/
inductive StepDid (s : State) : State → Prop where
  | waited (rest : List Event) : s.eng.state = .idle → StepDid s { s with agenda := rest }
  | iterated (rest : List Event) : s.eng.state = .run → StepDid s (iterate { s with agenda := rest })
  | delivered (b : Byte) (rest : List Event) : StepDid s { s with agenda := rest, chan := s.chan.deliver b }
  | wasReset (rest : List Event) : s.agenda = .reset :: rest → StepDid s (resetBlock { s with agenda := rest })
  | answered (r : BusReply) (rest : List Event) : StepDid s { s with agenda := rest, reply := some r }
  | readFailed (r : BusReply) (rest : List Event) :
      StepDid s { State.busError { s with agenda := rest } with reply := some r }
  | storedReg (r : Reg) (v : Word) (rest : List Event) : s.agenda = .host (.write 32 r.addr v) :: rest →
      StepDid s (writeReg { s with agenda := rest } r v)
  | storedByte (b : Buf) (a : Nat) (v : Byte) (rest : List Event) : bufAt s.cfg a = some b → b = .din ∨ b = .tx →
      StepDid s { s with agenda := rest, mem := Memory.write s.mem a v }
  | writeFailed (rest : List Event) : StepDid s (State.busError { s with agenda := rest })
  | illegal (rest : List Event) : StepDid s (State.reject { s with agenda := rest } .illegal)
  | executed (i : Instr) (rest : List Event) (t : State) : statusBusy s.status = false →
      exec i { s with agenda := rest } = .next t → StepDid s t

theorem stepDid_of_engineStep {s : State} {rest : List Event} :
    StepDid s (engineStep { s with agenda := rest }) := by
  rcases engineStep_cases { s with agenda := rest } with ⟨hrun, he⟩ | ⟨hidle, he⟩
  · rw [he]; exact .iterated rest hrun
  · rw [he]; exact .waited rest hidle

theorem stepDid_of_hostRead {s : State} {rest : List Event} (width : Nat) (addr : HostAddr) :
    StepDid s (hostRead { s with agenda := rest } width addr) := by
  rcases hostRead_cases { s with agenda := rest } width addr with ⟨v, -, hr⟩ | ⟨-, hr⟩
  · rw [hr]; exact .answered _ rest
  · rw [hr]; exact .readFailed _ rest

theorem stepDid_of_issue {s t : State} {rest : List Event} {w : Word}
    (h : issue w { s with agenda := rest } = .next t) : StepDid s t := by
  rcases issue_cases w { s with agenda := rest } with ⟨-, hi⟩ | ⟨-, -, hi⟩ | ⟨i, hb, -, hi⟩
  · rw [hi] at h; cases h
  · rw [hi] at h; cases h; exact .illegal rest
  · rw [hi] at h; exact .executed i rest t hb h

theorem stepDid_of_hostWrite {s t : State} {rest : List Event} {width : Nat} {addr : HostAddr} {v : Word}
    (ha : s.agenda = .host (.write width addr v) :: rest)
    (h : hostWrite { s with agenda := rest } width addr v = .next t) : StepDid s t := by
  rcases hostWrite_cases { s with agenda := rest } width addr v with
    ⟨-, -, hw⟩ | ⟨r, rfl, -, rfl, hw⟩ | ⟨b, -, hb, hbuf, hw⟩ | hw
  · exact stepDid_of_issue (hw ▸ h)
  · rw [hw] at h; cases h; exact .storedReg r v rest ha
  · rw [hw] at h; cases h; exact .storedByte b _ _ rest hb hbuf
  · rw [hw] at h; cases h; exact .writeFailed rest

/-- Every step that answers a next state has done one of these things. -/
theorem stepDid_of_step {s t : State} (h : step s = .next t) : StepDid s t := by
  rcases step_cases s with ⟨-, hs⟩ | ⟨rest, -, hs⟩ | ⟨b, rest, -, hs⟩ | ⟨rest, ha, hs⟩ |
    ⟨w, a, rest, -, hs⟩ | ⟨w, a, v, rest, ha, hs⟩ <;> rw [hs] at h
  · cases h; exact stepDid_of_engineStep (rest := s.agenda)
  · cases h; exact stepDid_of_engineStep
  · cases h; exact .delivered b rest
  · cases h; exact .wasReset rest ha
  · cases h; exact stepDid_of_hostRead w a
  · exact stepDid_of_hostWrite ha h

/-! ## What the block itself never touches -/

/-- What a command or an iteration never touches: what the host owns, and BERR, which only the bus sets and only reset
clears (10_state.md R21, R23, R26-R29). -/
structure BlockFrame (s t : State) : Prop extends HostSideKept s t where
  berr : statusBerr t.status = statusBerr s.status

theorem HostSideKept.trans {s t u : State} (h : HostSideKept s t) (k : HostSideKept t u) : HostSideKept s u :=
  { cfg := k.cfg.trans h.cfg, opa := k.opa.trans h.opa, opb := k.opb.trans h.opb, dlen := k.dlen.trans h.dlen
    txlen := k.txlen.trans h.txlen, timeout := k.timeout.trans h.timeout, expect := k.expect.trans h.expect
    txcfg := k.txcfg.trans h.txcfg, bitrate := k.bitrate.trans h.bitrate, agenda := k.agenda.trans h.agenda
    reply := k.reply.trans h.reply }

theorem BlockFrame.refl (s : State) : BlockFrame s s := ⟨by constructor <;> rfl, rfl⟩

theorem BlockFrame.trans {s t u : State} (h : BlockFrame s t) (k : BlockFrame t u) : BlockFrame s u :=
  ⟨h.toHostSideKept.trans k.toHostSideKept, k.berr.trans h.berr⟩

theorem blockFrame_accept (s : State) (ra rb : Word) : BlockFrame s (s.accept ra rb) :=
  ⟨by constructor <;> rfl, by simp⟩

theorem blockFrame_reject (s : State) (e : ErrCode) : BlockFrame s (s.reject e) :=
  ⟨by constructor <;> rfl, by simp⟩

theorem blockFrame_addField (s : State) (val : Option Half) : BlockFrame s (addField s val) := by
  rcases addField_cases s val with ⟨-, ha⟩ | ⟨-, -, ha⟩ | ⟨v, -, -, ha⟩ <;> rw [ha] <;>
    exact ⟨by constructor <;> rfl, by simp⟩

theorem blockFrame_startTransaction (s : State) : BlockFrame s (startTransaction s) :=
  ⟨by constructor <;> rfl, by simp [startTransaction]⟩

theorem blockFrame_exec {i : Instr} {s t : State} (h : exec i s = .next t) : BlockFrame s t := by
  obtain ⟨t', ht, did⟩ := exec_cases i s
  obtain rfl : t' = t := Host.Outcome.next.inj (ht.symm.trans h)
  rcases did with ⟨ra, rb, rfl⟩ | rfl | ⟨val, rfl⟩ | rfl | ⟨-, rfl⟩ | ⟨-, rfl⟩
  · exact blockFrame_accept s ra rb
  · exact ⟨by constructor <;> rfl, by simp⟩
  · exact blockFrame_addField s val
  · exact blockFrame_reject s .arg
  · exact ⟨by constructor <;> rfl, by simp [decodeMessage]⟩
  · exact blockFrame_startTransaction s

theorem blockFrame_sendPart (s : State) : BlockFrame s (sendPart s) := by
  rcases sendPart_cases s with ⟨u, -, hs⟩ | ⟨-, hs⟩ <;> rw [hs]
  · exact ⟨by constructor <;> rfl, rfl⟩
  · exact .refl s

theorem blockFrame_finishTransaction (s : State) : BlockFrame s (finishTransaction s) :=
  ⟨by constructor <;> rfl, by simp⟩

theorem blockFrame_receiveMarker (s : State) : BlockFrame s (receiveMarker s) := by
  rcases receiveMarker_cases s with ⟨-, hm⟩ | ⟨-, hm⟩ <;> rw [hm]
  · exact ⟨by constructor <;> rfl, by simp⟩
  · exact ⟨by constructor <;> rfl, rfl⟩

theorem blockFrame_receiveData (s : State) (b : Byte) : BlockFrame s (receiveData s b) := by
  rcases receiveData_cases s b with ⟨-, hd⟩ | ⟨-, hd⟩ <;> rw [hd]
  · exact ⟨by constructor <;> rfl, rfl⟩
  · exact ⟨by constructor <;> rfl, by simp⟩

theorem blockFrame_receivePart (s : State) : BlockFrame s (receivePart s) := by
  have unread (rest : List Byte) : BlockFrame s { s with chan := { s.chan with inbound := rest } } :=
    ⟨by constructor <;> rfl, rfl⟩
  rcases receivePart_cases s with ⟨-, hr⟩ | ⟨b, rest, -, ⟨-, hr⟩ | ⟨-, hr⟩⟩ <;> rw [hr]
  · exact .refl s
  · exact (unread rest).trans (blockFrame_receiveMarker _)
  · exact (unread rest).trans (blockFrame_receiveData _ b)

theorem blockFrame_iterate (s : State) : BlockFrame s (iterate s) := by
  have sampled : BlockFrame s { sendPart s with clock := (sendPart s).clock.sample } :=
    (blockFrame_sendPart s).trans ⟨by constructor <;> rfl, rfl⟩
  rcases iterate_cases s with ⟨-, hi⟩ | ⟨-, hi⟩ <;> rw [hi]
  · exact sampled.trans (blockFrame_finishTransaction _)
  · exact sampled.trans (blockFrame_receivePart _)

/-! ## BERR -/

/-- A store into a register the host owns leaves STATUS alone. -/
@[simp] theorem writeReg_status (s : State) (r : Reg) (v : Word) : (writeReg s r v).status = s.status := by
  cases r <;> rfl

/-- Settles O9: of all that a step can do, only the reset input writes 0 to BERR. -/
theorem busErrorFlagFallsOnlyAtReset : Obligations.BusErrorFlagFallsOnlyAtReset := by
  intro s t hstep hberr
  cases stepDid_of_step hstep with
  | wasReset rest ha => exact .inr ⟨rest, ha⟩
  | iterated rest hrun => exact .inl ((blockFrame_iterate _).berr.trans hberr)
  | executed i rest _ hb hexec => exact .inl ((blockFrame_exec hexec).berr.trans hberr)
  | storedReg r v rest ha => exact .inl (by simpa using hberr)
  | readFailed r rest => exact .inl (statusBerr_setBerr _)
  | writeFailed rest => exact .inl (statusBerr_setBerr _)
  | illegal rest => exact .inl ((blockFrame_reject { s with agenda := rest } .illegal).berr.trans hberr)
  | waited rest _ => exact .inl hberr
  | delivered b rest => exact .inl hberr
  | answered r rest => exact .inl hberr
  | storedByte b a v rest _ _ => exact .inl hberr

/-! ## The registers the host owns -/

/-- Where the host's side is kept, every register the host owns reads as before. -/
theorem HostSideKept.readReg_eq {s t : State} (h : HostSideKept s t) {r : Reg} (hr : r ∈ hostOwned) :
    readReg t r = readReg s r := by
  simp only [hostOwned, List.mem_cons, List.not_mem_nil, or_false] at hr
  rcases hr with rfl | rfl | rfl | rfl | rfl | rfl | rfl | rfl
  exacts [h.opa, h.opb, h.dlen, h.txlen, h.timeout, h.expect, h.txcfg, h.bitrate]

/-- A store into one register leaves every other register alone. -/
theorem readReg_writeReg_other (s : State) {q r : Reg} (v : Word) (h : q ≠ r) :
    readReg (writeReg s r v) q = readReg s q := by
  cases r <;> cases q <;> simp [writeReg, readReg] at h ⊢

/-- Settles O10: a step that is neither a reset nor the host's write of the register keeps the host's side or stores
into another register. -/
theorem blockNeverWritesHostRegisters : Obligations.BlockNeverWritesHostRegisters := by
  intro s t r hr hstep hne
  have absurd_of_kept (rest : List Event) (reply : Option BusReply)
      (h : HostSideKept { s with agenda := rest, reply := reply } t) : False :=
    hne ((h.readReg_eq hr).trans (by cases r <;> rfl))
  cases stepDid_of_step hstep with
  | wasReset rest ha => exact ⟨.reset, rest, ha, .inl rfl⟩
  | storedReg q v rest ha =>
    by_cases hq : r = q
    · exact ⟨_, rest, ha, .inr ⟨v, by rw [hq]⟩⟩
    · exact absurd ((readReg_writeReg_other _ v hq).trans (by cases r <;> rfl)) hne
  | iterated rest hrun => exact (absurd_of_kept rest _ (blockFrame_iterate _).toHostSideKept).elim
  | executed i rest _ hb hexec => exact (absurd_of_kept rest _ (blockFrame_exec hexec).toHostSideKept).elim
  | illegal rest => exact (absurd_of_kept rest _ (blockFrame_reject _ _).toHostSideKept).elim
  | waited rest _ => exact (absurd_of_kept rest s.reply (by constructor <;> rfl)).elim
  | delivered b rest => exact (absurd_of_kept rest s.reply (by constructor <;> rfl)).elim
  | answered a rest => exact (absurd_of_kept rest (some a) (by constructor <;> rfl)).elim
  | readFailed a rest => exact (absurd_of_kept rest (some a) (by constructor <;> rfl)).elim
  | storedByte b a v rest _ _ => exact (absurd_of_kept rest s.reply (by constructor <;> rfl)).elim
  | writeFailed rest => exact (absurd_of_kept rest s.reply (by constructor <;> rfl)).elim

end Sys2Proof.Machine
end

section
/-! A change of the buffers' memory that stays within the implemented part of one buffer: it keeps the memory legal and
leaves every other buffer as it was, since no two windows overlap (20_memory.md R60). -/

namespace Sys2Proof.Machine

theorem holds_iff {cfg : Config} {b : Buf} {a : Nat} :
    b.holds cfg a = true ↔ b.base ≤ a ∧ a < b.base + b.size cfg := by simp [Buf.holds]

theorem holds_addr {cfg : Config} {b : Buf} {i : Nat} (h : i < b.size cfg) : b.holds cfg (b.addr i) = true :=
  holds_iff.mpr (by unfold Buf.addr; omega)

/-- An implemented address is found by the address map. -/
theorem bufAt_isSome_of_holds {cfg : Config} {b : Buf} {a : Nat} (h : b.holds cfg a = true) :
    (bufAt cfg a).isSome = true :=
  List.find?_isSome.mpr ⟨b, by cases b <;> simp, h⟩

/-- The legal ranges of the parameters (00_scope.md R5). -/
theorem legal_bounds {cfg : Config} (h : cfg.legal = true) :
    cfg.dinCap ≤ 512 ∧ cfg.txCap ≤ 512 ∧ cfg.rxCap ≤ 512 ∧ cfg.moffCap ≤ 128 := by
  simp only [Config.legal, Config.dinCapLegal, Config.txCapLegal, Config.rxCapLegal, Config.moffCapLegal,
    Bool.and_eq_true, decide_eq_true_eq] at h
  omega

/-- Each buffer lies in a 512-byte page of its own. -/
theorem addr_div_page {cfg : Config} (hl : cfg.legal = true) {b : Buf} {i : Nat} (hi : i < b.size cfg) :
    (b.base + i) / 0x200 = b.base / 0x200 := by
  obtain ⟨hdin, htx, hrx, hmoff⟩ := legal_bounds hl
  cases b <;> simp only [Buf.base, Buf.size, Config.frameDigits, Config.doutCap] at hi ⊢ <;> omega

theorem page_injective {b c : Buf} (h : b.base / 0x200 = c.base / 0x200) : b = c := by
  cases b <;> cases c <;> simp [Buf.base] at h ⊢

/-- No implemented byte of one buffer is one of another. -/
theorem not_holds_of_ne {cfg : Config} (hl : cfg.legal = true) {b c : Buf} (hne : b ≠ c) {i : Nat}
    (hi : i < c.size cfg) : b.holds cfg (c.base + i) = false := by
  rw [← Bool.not_eq_true, holds_iff]
  rintro ⟨hlo, hhi⟩
  obtain ⟨j, hj⟩ := Nat.exists_eq_add_of_le hlo
  refine hne (page_injective ?_)
  rw [← addr_div_page hl (i := j) (by omega), ← hj, addr_div_page hl hi]

/-- `m'` differs from `m` within the implemented part of buffer `b` only, and is canonical where `m` is. -/
structure WritesOnly (cfg : Config) (b : Buf) (m m' : Memory) : Prop where
  wf : Memory.wf m → Memory.wf m'
  listed : ∀ c ∈ m', c ∈ m ∨ b.holds cfg c.1 = true
  kept : ∀ a, b.holds cfg a = false → Memory.read m' a = Memory.read m a

theorem WritesOnly.trans {cfg : Config} {b : Buf} {m m' m'' : Memory} (h : WritesOnly cfg b m m')
    (k : WritesOnly cfg b m' m'') : WritesOnly cfg b m m'' where
  wf hw := k.wf (h.wf hw)
  listed c hc := (k.listed c hc).elim (h.listed c) .inr
  kept a ha := (k.kept a ha).trans (h.kept a ha)

theorem writesOnly_write {cfg : Config} {b : Buf} {a : Nat} (h : b.holds cfg a = true) (m : Memory) (v : Byte) :
    WritesOnly cfg b m (Memory.write m a v) where
  wf := wf_write m a v
  listed c hc := (mem_write_addr m a v c hc).elim (fun e => .inr (e ▸ h)) .inl
  kept x hx := read_write_other m a x v (fun e => by rw [e, h] at hx; cases hx)

theorem writesOnly_writeBytes {cfg : Config} {b : Buf} {i : Nat} {bs : List Byte} (h : i + bs.length ≤ b.size cfg)
    (m : Memory) : WritesOnly cfg b m (Memory.writeBytes m (b.addr i) bs) where
  wf := wf_writeBytes bs m _
  listed c hc := (mem_writeBytes_addr bs m _ c hc).symm.imp_right
    (fun hr => holds_iff.mpr (by unfold Buf.addr at hr; omega))
  kept x hx := read_writeBytes_other bs m _ x (by
    rw [← Bool.not_eq_true, holds_iff] at hx
    unfold Buf.addr; omega)

theorem writesOnly_clear (cfg : Config) (b : Buf) (m : Memory) :
    WritesOnly cfg b m (Memory.clear m b.base (b.size cfg)) where
  wf := wf_clear m _ _
  listed c hc := .inl (mem_clear m _ _ c hc)
  kept x hx := by
    rw [← Bool.not_eq_true, holds_iff] at hx
    rw [read_clear, if_neg hx]

/-- Every other buffer reads as before. -/
theorem WritesOnly.read_other {cfg : Config} {b : Buf} {m m' : Memory} (w : WritesOnly cfg b m m')
    (hl : cfg.legal = true) {c : Buf} (hne : b ≠ c) (i : Nat) (hi : i < c.size cfg) :
    Memory.read m' (c.base + i) = Memory.read m (c.base + i) :=
  w.kept _ (not_holds_of_ne hl hne hi)

end Sys2Proof.Machine
end

section
/-! For each clause of `State.Inv`, what it needs to carry over from one state to another. -/

namespace Sys2Proof.Machine

variable {s t : State}

/-! ### Memory -/

theorem memoryInv_of_writesOnly (h : memoryInv s) {b : Buf} (w : WritesOnly s.cfg b s.mem t.mem)
    (hcfg : t.cfg = s.cfg) : memoryInv t := by
  refine ⟨w.wf h.1, fun c hc => ?_⟩
  rw [hcfg]
  exact (w.listed c hc).elim (h.2 c) bufAt_isSome_of_holds

/-! ### STATUS and TXCFG -/

/-- The reserved bits of STATUS are as before (10_state.md R21). -/
def reservedKept (w w' : Word) : Prop := ∀ k, k = 3 ∨ 10 ≤ k → w'.getLsbD k = w.getLsbD k

theorem reservedKept.trans {w w' w'' : Word} (h : reservedKept w w') (h' : reservedKept w' w'') : reservedKept w w'' :=
  fun k hk => (h' k hk).trans (h k hk)

theorem reservedKept_setBusy (b : Bool) (w : Word) : reservedKept w (setBusy b w) :=
  fun k hk => by rw [getLsbD_setBusy, if_neg (by omega)]

theorem reservedKept_setBerr (w : Word) : reservedKept w (setBerr w) :=
  fun k hk => by rw [getLsbD_setBerr, if_neg (by omega)]

theorem reservedKept_setRxovf (b : Bool) (w : Word) : reservedKept w (setRxovf b w) :=
  fun k hk => by rw [getLsbD_setRxovf, if_neg (by omega)]

theorem reservedKept_setErr (e : ErrCode) (w : Word) : reservedKept w (setErr e w) :=
  fun k hk => by rw [getLsbD_setErr, if_neg (by omega)]

theorem reservedKept_setTxres (r : TxRes) (w : Word) : reservedKept w (setTxres r w) :=
  fun k hk => by rw [getLsbD_setTxres, if_neg (by omega)]

theorem ErrCode.code_le_four (e : ErrCode) : e.code.toNat ≤ 4 := by cases e <;> decide

theorem statusInv_of_reservedKept (h : statusInv s) (hres : reservedKept s.status t.status)
    (herr : (statusErr t.status).toNat ≤ 4) (hbusy : statusBusy t.status = true ↔ t.running)
    (htxres : t.running → statusTxres t.status = 0) (hcfg : t.txcfg = s.txcfg) : statusInv t := by
  obtain ⟨hbit3, hhigh, -, -, -, htxcfg⟩ := h
  refine ⟨(hres 3 (.inl rfl)).trans hbit3, ?_, herr, hbusy, htxres, hcfg ▸ htxcfg⟩
  exact (getField_congr _ _ 10 22 (fun k hk _ => hres k (.inr hk))).trans hhigh

/-! ### The message frame -/

theorem mlen_mod_eight (h : s.mlen = 0 ∨ s.mlen = 8 ∨ s.mlen = 16 ∨ s.mlen = 24) :
    s.mlen.toNat % 8 = 0 ∧ s.mlen.toNat ≤ 24 := by
  rcases h with h | h | h | h <;> simp [h]

theorem frameInv_of_writesOnly (h : frameInv s) (hl : s.cfg.legal = true) {b : Buf}
    (w : WritesOnly s.cfg b s.mem t.mem) (hne : b ≠ .msg) (hmlen : t.mlen = s.mlen) : frameInv t := by
  obtain ⟨hlen, hblocks, hzero⟩ := h
  have hread : ∀ i < 24, Memory.read t.mem (0x100 + i) = Memory.read s.mem (0x100 + i) := w.read_other hl hne
  have hmod := mlen_mod_eight hlen
  unfold frameInv
  rw [hmlen]
  refine ⟨hlen, fun j hj => ?_, fun j h1 h2 => (hread j h2).trans (hzero j h1 h2)⟩
  obtain ⟨n, v, hn, hb⟩ := hblocks j hj
  refine ⟨n, v, hn, Eq.trans (readBytes_congr _ _ _ _ _ fun i hi => ?_) hb⟩
  simpa only [Nat.add_assoc] using hread (8 * j + i) (by omega)

/-- A nibble of the high byte of a 16-bit value is a nibble of the value. -/
theorem extractLsb'_of_high_byte (v : Half) (k : Nat) (hk : k + 4 ≤ 8) :
    (v.extractLsb' 8 8).extractLsb' k 4 = v.extractLsb' (8 + k) 4 := by
  apply BitVec.eq_of_getLsbD_eq
  intro i hi
  simp only [BitVec.getLsbD_extractLsb', hi, decide_true, Bool.true_and, Nat.add_assoc]
  simp; omega

theorem fieldBlock_eq_blockChars (n v : Half) : fieldBlock n v = blockChars n v := by
  simp [fieldBlock, hexOfHalf, hexOfByte, blockChars, extractLsb'_of_high_byte]

/-- A packed name has bit 15 clear (41_fieldname.md R142). -/
theorem packName_bit15 (c0 c1 c2 : Byte) : (packName c0 c1 c2).getLsbD 15 = false := by
  simp only [packName, BitVec.getLsbD_append]
  rfl

/-- A block appended behind a legal message leaves a legal message (42_message.md R163). -/
theorem frameInv_append (h : frameInv s) (hroom : s.mlen.toNat + 8 ≤ 24) {n v : Half} (hn : n.getLsbD 15 = false)
    (hmlen : t.mlen = s.mlen + 8) (hmem : t.mem = Memory.writeBytes s.mem (0x100 + s.mlen.toNat) (blockChars n v)) :
    frameInv t := by
  obtain ⟨hlen, hblocks, hzero⟩ := h
  have hmod := mlen_mod_eight hlen
  have hnat : t.mlen.toNat = s.mlen.toNat + 8 := by rw [hmlen]; bv_omega
  have hkept (i : Nat) (hi : i < s.mlen.toNat ∨ s.mlen.toNat + 8 ≤ i) :
      Memory.read t.mem (0x100 + i) = Memory.read s.mem (0x100 + i) := by
    rw [hmem]; exact read_writeBytes_other _ _ _ _ (by simp [blockChars]; omega)
  refine ⟨?_, fun j hj => ?_, fun j h1 h2 => (hkept j (by omega)).trans (hzero j (by omega) h2)⟩
  · rcases hlen with h | h | h | h <;> simp [h] at hroom <;> simp [hmlen, h]
  · by_cases hold : 8 * j < s.mlen.toNat
    · obtain ⟨n', v', hn', hb⟩ := hblocks j hold
      refine ⟨n', v', hn', Eq.trans (readBytes_congr _ _ _ _ _ fun i hi => ?_) hb⟩
      simpa only [Nat.add_assoc] using hkept (8 * j + i) (by omega)
    · have hnew : 8 * j = s.mlen.toNat := by omega
      exact ⟨n, v, hn, by rw [hnew, hmem]; exact readBytes_writeBytes_same _ _ _⟩

/-! ### The decode output -/

theorem decodeInv_of_writesOnly (h : decodeInv s) (hl : s.cfg.legal = true) {b : Buf}
    (w : WritesOnly s.cfg b s.mem t.mem) (hne : b ≠ .dout) (hcfg : t.cfg = s.cfg) (hdcnt : t.dcnt = s.dcnt) :
    decodeInv t := by
  obtain ⟨hle, hzero⟩ := h
  unfold decodeInv
  rw [hcfg, hdcnt]
  exact ⟨hle, fun j h1 h2 => (w.read_other hl hne j h2).trans (hzero j h1 h2)⟩

/-! ### The clauses no transaction touches -/

/-- The clauses on memory as a whole, MSG and DOUT: what a write in DIN, TX, RX or MOFF keeps. -/
structure messageSideInv (s : State) : Prop where
  memory : memoryInv s
  frame : frameInv s
  decode : decodeInv s

theorem messageSideInv_of_writesOnly (h : messageSideInv s) (hl : s.cfg.legal = true) {b : Buf}
    (w : WritesOnly s.cfg b s.mem t.mem) (hmsg : b ≠ .msg) (hdout : b ≠ .dout) (hcfg : t.cfg = s.cfg)
    (hmlen : t.mlen = s.mlen) (hdcnt : t.dcnt = s.dcnt) : messageSideInv t where
  memory := memoryInv_of_writesOnly h.memory w hcfg
  frame := frameInv_of_writesOnly h.frame hl w hmsg hmlen
  decode := decodeInv_of_writesOnly h.decode hl w hdout hcfg hdcnt

/-! ### The response, in its two halves: the bytes of RX and the offsets in MOFF -/

/-- RX: RXLEN within RX_CAP, no marker stored, 0x00 beyond RXLEN (10_state.md R35, 43_transaction.md R207). -/
structure rxInv (s : State) : Prop where
  within : s.rxlen.toNat ≤ s.cfg.rxCap
  noMarker : ∀ j < s.rxlen.toNat, Memory.read s.mem (0x800 + j) ≠ s.eng.marker
  zero : ∀ j, s.rxlen.toNat ≤ j → j < s.cfg.rxCap → Memory.read s.mem (0x800 + j) = 0

/-- MOFF: MCOUNT within its bounds, offsets rising and at most RXLEN, 0 beyond MCOUNT (10_state.md R36,
43_transaction.md R206, R214). -/
structure moffInv (s : State) : Prop where
  within : s.mcount.toNat ≤ s.cfg.moffCap
  expected : s.mcount.toNat ≤ max s.eng.expect 1
  rising : ∀ m, m + 1 < s.mcount.toNat → markerOffset s m ≤ markerOffset s (m + 1)
  atMost : ∀ m < s.mcount.toNat, markerOffset s m ≤ s.rxlen.toNat
  zero : ∀ j, 2 * s.mcount.toNat ≤ j → j < 2 * s.cfg.moffCap → Memory.read s.mem (0xA00 + j) = 0

theorem responseInv_iff : responseInv s ↔ rxInv s ∧ moffInv s :=
  ⟨fun ⟨r1, r2, r3, m1, m2, m3, m4, m5⟩ => ⟨⟨r1, r2, r3⟩, ⟨m1, m2, m3, m4, m5⟩⟩,
    fun ⟨⟨r1, r2, r3⟩, ⟨m1, m2, m3, m4, m5⟩⟩ => ⟨r1, r2, r3, m1, m2, m3, m4, m5⟩⟩

theorem rxInv_of_writesOnly (h : rxInv s) (hl : s.cfg.legal = true) {b : Buf} (w : WritesOnly s.cfg b s.mem t.mem)
    (hne : b ≠ .rx) (hcfg : t.cfg = s.cfg) (heng : t.eng = s.eng) (hrxlen : t.rxlen = s.rxlen) : rxInv t := by
  have hread : ∀ i < s.cfg.rxCap, Memory.read t.mem (0x800 + i) = Memory.read s.mem (0x800 + i) := w.read_other hl hne
  refine ⟨?_, fun j hj => ?_, fun j h1 h2 => ?_⟩ <;> simp only [hcfg, heng, hrxlen] at *
  · exact h.within
  · rw [hread j (hj.trans_le h.within)]; exact h.noMarker j hj
  · rw [hread j h2]; exact h.zero j h1 h2

/-- RXLEN does not wrap where there is room. -/
theorem rxlen_succ (hl : s.cfg.legal = true) (hroom : s.rxlen.toNat < s.cfg.rxCap) :
    (s.rxlen + 1).toNat = s.rxlen.toNat + 1 := by
  obtain ⟨-, -, hcap, -⟩ := legal_bounds hl
  bv_omega

/-- What `receiveData` makes of the state where RX has room (43_transaction.md R207): `receiveData_eq_append`. -/
def appendData (s : State) (b : Byte) : State :=
  { s with mem := Memory.write s.mem (Buf.rx.addr s.rxlen.toNat) b, rxlen := s.rxlen + 1 }

theorem receiveData_eq_append (s : State) (b : Byte) (hroom : s.rxlen.toNat < s.cfg.rxCap) :
    receiveData s b = appendData s b := if_pos hroom

/-- A byte other than the marker, appended where there is room (43_transaction.md R207). -/
theorem rxInv_append (h : rxInv s) (hl : s.cfg.legal = true) (hroom : s.rxlen.toNat < s.cfg.rxCap) {b : Byte}
    (hb : b ≠ s.eng.marker) :
    rxInv (appendData s b) := by
  have hnat := rxlen_succ hl hroom
  have hother (j : Nat) (hj : j ≠ s.rxlen.toNat) :
      Memory.read (Memory.write s.mem (Buf.rx.addr s.rxlen.toNat) b) (0x800 + j) = Memory.read s.mem (0x800 + j) :=
    read_write_other _ _ _ _ (by simp only [Buf.addr, Buf.base]; omega)
  refine ⟨?_, fun j hj => ?_, fun j h1 h2 => ?_⟩ <;> simp only [appendData, hnat] at *
  · exact hroom
  · by_cases hlast : j = s.rxlen.toNat
    · rw [hlast]; exact (read_write_same _ _ _).trans_ne hb
    · rw [hother j hlast]; exact h.noMarker j (by omega)
  · rw [hother j (by omega)]; exact h.zero j (by omega) h2

theorem markerOffset_congr {m : Nat}
    (hread : ∀ i, i = 2 * m ∨ i = 2 * m + 1 → Memory.read t.mem (0xA00 + i) = Memory.read s.mem (0xA00 + i)) :
    markerOffset t m = markerOffset s m := by
  unfold markerOffset
  rw [hread (2 * m) (.inl rfl), Nat.add_assoc, hread (2 * m + 1) (.inr rfl)]

/-- Two bytes, little-endian, make up a word below 2^16 (10_state.md R36). -/
theorem toNat_of_two_bytes (w : Word) (h : w.toNat < 65536) :
    (w.extractLsb' 0 8).toNat + 256 * (w.extractLsb' 8 8).toNat = w.toNat := by
  simp only [BitVec.extractLsb'_toNat, Nat.shiftRight_eq_div_pow]
  omega

/-- A word below 2^16 recorded as a marker offset is read back (43_transaction.md R206). -/
theorem markerOffset_of_offsetBytes {m : Memory} {k : Nat} {w : Word}
    (hmem : t.mem = Memory.writeBytes m (0xA00 + 2 * k) (offsetBytes w)) (h : w.toNat < 65536) :
    markerOffset t k = w.toNat := by
  unfold markerOffset
  rw [hmem, read_writeBytes, if_pos (by simp [offsetBytes]), read_writeBytes, if_pos (by simp [offsetBytes])]
  simpa [offsetBytes] using toNat_of_two_bytes w h

theorem moffInv_of_writesOnly (h : moffInv s) (hl : s.cfg.legal = true) {b : Buf}
    (w : WritesOnly s.cfg b s.mem t.mem) (hne : b ≠ .moff) (hcfg : t.cfg = s.cfg) (heng : t.eng = s.eng)
    (hmcount : t.mcount = s.mcount) (hrxlen : s.rxlen.toNat ≤ t.rxlen.toNat) : moffInv t := by
  have hread : ∀ i < 2 * s.cfg.moffCap, Memory.read t.mem (0xA00 + i) = Memory.read s.mem (0xA00 + i) :=
    w.read_other hl hne
  have hcap := h.within
  have hoffset (m : Nat) (hm : m < s.mcount.toNat) : markerOffset t m = markerOffset s m :=
    markerOffset_congr fun i hi => hread i (by omega)
  refine ⟨?_, ?_, fun m hm => ?_, fun m hm => ?_, fun j h1 h2 => ?_⟩ <;> simp only [hcfg, hmcount, heng] at *
  · exact hcap
  · exact h.expected
  · rw [hoffset m (by omega), hoffset (m + 1) hm]; exact h.rising m hm
  · rw [hoffset m hm]; exact (h.atMost m hm).trans hrxlen
  · rw [hread j h2]; exact h.zero j h1 h2

/-- What `receiveMarker` makes of the state before it looks for the end of the loop (43_transaction.md R206):
`receiveMarker_eq_count`. -/
def countMarker (s : State) : State :=
  { s with
    mem := Memory.writeBytes s.mem (Buf.moff.addr (2 * s.mcount.toNat)) (offsetBytes s.rxlen)
    mcount := s.mcount + 1 }

@[simp] theorem countMarker_cfg (s : State) : (countMarker s).cfg = s.cfg := rfl
@[simp] theorem countMarker_eng (s : State) : (countMarker s).eng = s.eng := rfl
@[simp] theorem countMarker_rxlen (s : State) : (countMarker s).rxlen = s.rxlen := rfl
@[simp] theorem countMarker_mcount (s : State) : (countMarker s).mcount = s.mcount + 1 := rfl

theorem receiveMarker_eq_count (s : State) :
    receiveMarker s =
      if (s.mcount + 1).toNat ≥ s.eng.expect then finishTransaction (countMarker s) else countMarker s := rfl

/-- A marker's offset, the current RXLEN, recorded behind the others (43_transaction.md R206). -/
theorem moffInv_record (h : moffInv s) (hl : s.cfg.legal = true) (hrx : s.rxlen.toNat ≤ s.cfg.rxCap)
    (hcap : s.mcount.toNat < s.cfg.moffCap) (hexpect : s.mcount.toNat < max s.eng.expect 1) :
    moffInv (countMarker s) := by
  obtain ⟨-, -, hrxCap, hmoffCap⟩ := legal_bounds hl
  have hnat : (s.mcount + 1).toNat = s.mcount.toNat + 1 := by bv_omega
  have hread (i : Nat) (hi : i < 2 * s.mcount.toNat ∨ 2 * s.mcount.toNat + 2 ≤ i) :
      Memory.read (countMarker s).mem (0xA00 + i) = Memory.read s.mem (0xA00 + i) := by
    exact read_writeBytes_other _ _ _ _ (by simp [offsetBytes, Buf.addr, Buf.base]; omega)
  have hold (m : Nat) (hm : m < s.mcount.toNat) : markerOffset (countMarker s) m = markerOffset s m :=
    markerOffset_congr fun i hi => hread i (by omega)
  have hnew : markerOffset (countMarker s) s.mcount.toNat = s.rxlen.toNat :=
    markerOffset_of_offsetBytes rfl (by omega)
  refine ⟨?_, ?_, fun m hm => ?_, fun m hm => ?_, fun j h1 h2 => ?_⟩ <;>
    simp only [countMarker_cfg, countMarker_eng, countMarker_rxlen, countMarker_mcount, hnat] at *
  · exact hcap
  · exact hexpect
  · rw [hold m (by omega)]
    by_cases hlast : m + 1 = s.mcount.toNat
    · rw [hlast, hnew]; exact h.atMost m (by omega)
    · rw [hold (m + 1) (by omega)]; exact h.rising m (by omega)
  · by_cases hlast : m = s.mcount.toNat
    · rw [hlast, hnew]
    · rw [hold m (by omega)]; exact h.atMost m (by omega)
  · rw [hread j (by omega)]; exact h.zero j (by omega) h2

theorem responseInv_of_writesOnly (h : responseInv s) (hl : s.cfg.legal = true) {b : Buf}
    (w : WritesOnly s.cfg b s.mem t.mem) (hrx : b ≠ .rx) (hmoff : b ≠ .moff) (hcfg : t.cfg = s.cfg)
    (heng : t.eng = s.eng) (hrxlen : t.rxlen = s.rxlen) (hmcount : t.mcount = s.mcount) : responseInv t := by
  obtain ⟨hr, hm⟩ := responseInv_iff.mp h
  exact responseInv_iff.mpr ⟨rxInv_of_writesOnly hr hl w hrx hcfg heng hrxlen,
    moffInv_of_writesOnly hm hl w hmoff hcfg heng hmcount (by rw [hrxlen])⟩

/-- A response just cleared. -/
theorem responseInv_of_cleared (hrxlen : t.rxlen = 0) (hmcount : t.mcount = 0)
    (hrx : ∀ j < t.cfg.rxCap, Memory.read t.mem (0x800 + j) = 0)
    (hmoff : ∀ j < 2 * t.cfg.moffCap, Memory.read t.mem (0xA00 + j) = 0) : responseInv t := by
  refine responseInv_iff.mpr ⟨⟨?_, fun j hj => ?_, fun j _ => hrx j⟩,
    ⟨?_, ?_, fun j hj => ?_, fun j hj => ?_, fun j _ => hmoff j⟩⟩ <;> simp [hrxlen, hmcount] at *

/-! ### The result -/

/-- While no result stands in TXRES, as while RUN, nothing is claimed of it. -/
theorem resultInv_of_none (h : statusTxres s.status = 0) : resultInv s := by
  unfold resultInv
  rw [h]
  exact ⟨fun h => absurd h (by decide), fun h => absurd h (by decide), fun h => absurd h (by decide)⟩

end Sys2Proof.Machine
end

section
/-! For each operation of the machine, that it keeps `State.Inv`; then the step. In each proof `{ h with … }` names the
clauses the operation touches, and every other clause is the one of the state before. -/

namespace Sys2Proof.Machine

variable {s : State}

/-! ### Single facts of the invariant -/

theorem State.Inv.busy_iff_running (h : s.Inv) : statusBusy s.status = true ↔ s.running := by
  obtain ⟨-, -, -, hbusy, -, -⟩ := h.status
  exact hbusy

theorem State.Inv.err_le_four (h : s.Inv) : (statusErr s.status).toNat ≤ 4 := by
  obtain ⟨-, -, herr, -, -, -⟩ := h.status
  exact herr

theorem State.Inv.txres_of_running (h : s.Inv) (hrun : s.running) : statusTxres s.status = 0 := by
  obtain ⟨-, -, -, -, htxres, -⟩ := h.status
  exact htxres hrun

theorem State.Inv.messageSide (h : s.Inv) : messageSideInv s := { h with }

theorem State.Inv.rx (h : s.Inv) : rxInv s := (responseInv_iff.mp h.response).1

theorem State.Inv.moff (h : s.Inv) : moffInv s := (responseInv_iff.mp h.response).2

/-! ### The bus, the channel, reset -/

/-- STATUS may be written in ERR, BERR and RXOVF at any time. -/
theorem State.Inv.withStatus (h : s.Inv) {w : Word} (hres : reservedKept s.status w) (herr : (statusErr w).toNat ≤ 4)
    (hbusy : statusBusy w = statusBusy s.status) (htxres : statusTxres w = statusTxres s.status) :
    State.Inv { s with status := w } :=
  { h with
    status := statusInv_of_reservedKept h.status hres herr (hbusy ▸ h.busy_iff_running)
      (fun hrun => htxres.trans (h.txres_of_running hrun)) rfl
    result := by simpa only [resultInv, htxres] using h.result }

theorem State.Inv.after_busError (h : s.Inv) : s.busError.Inv :=
  h.withStatus (reservedKept_setBerr _) (by simpa using h.err_le_four) (by simp) (by simp)

theorem State.Inv.after_reject (h : s.Inv) (e : ErrCode) : (s.reject e).Inv :=
  h.withStatus (reservedKept_setErr _ _) (by simpa using e.code_le_four) (by simp) (by simp)

theorem State.Inv.after_accept (h : s.Inv) (ra rb : Word) : (s.accept ra rb).Inv :=
  { h.after_reject .ok with }

theorem State.Inv.after_setRxovf (h : s.Inv) : State.Inv { s with status := setRxovf true s.status } :=
  h.withStatus (reservedKept_setRxovf _ _) (by simpa using h.err_le_four) (by simp) (by simp)

/-- The invariant does not speak of the agenda. -/
theorem State.Inv.withAgenda (h : s.Inv) (rest : List Event) : State.Inv { s with agenda := rest } := { h with }

/-- The invariant does not speak of the last answer. -/
theorem State.Inv.withReply (h : s.Inv) (r : Option BusReply) : State.Inv { s with reply := r } := { h with }

/-- TXCFG keeps its reserved bits 0 under any store (10_state.md R29). -/
theorem txcfgMask_reserved (v : Word) : (v &&& txcfgMask) &&& ~~~0x0000FF01 = 0 := by
  rw [BitVec.and_assoc]
  exact BitVec.and_zero

theorem State.Inv.after_writeReg (h : s.Inv) (r : Reg) (v : Word) : (writeReg s r v).Inv := by
  cases r with
  | txcfg =>
    obtain ⟨hbit3, hhigh, herr, hbusy, htxres, -⟩ := h.status
    exact { h with status := ⟨hbit3, hhigh, herr, hbusy, htxres, txcfgMask_reserved v⟩ }
  | _ => exact { h with }

/-- A change of the memory in DIN or TX touches no buffer the invariant speaks of. -/
theorem State.Inv.after_hostByte (h : s.Inv) {b : Buf} (hb : b = .din ∨ b = .tx) {m : Memory}
    (w : WritesOnly s.cfg b s.mem m) : State.Inv { s with mem := m } := by
  have hne (c : Buf) (hdin : c ≠ .din := by nofun) (htx : c ≠ .tx := by nofun) : b ≠ c := by
    rintro rfl; exact hb.elim hdin htx
  have side : messageSideInv { s with mem := m } :=
    messageSideInv_of_writesOnly h.messageSide h.legal w (hne .msg) (hne .dout) rfl rfl rfl
  exact { side, h with
    response := responseInv_of_writesOnly h.response h.legal w (hne .rx) (hne .moff) rfl rfl rfl rfl }

theorem State.Inv.after_deliver (h : s.Inv) (b : Byte) : State.Inv { s with chan := s.chan.deliver b } := by
  obtain ⟨hopen, hempty, hsent⟩ := h.channel
  have closed (hc : s.chan.isOpen = false) : (s.chan.deliver b).inbound = [] := by
    simpa [Channel.deliver, hc] using hempty hc
  exact { h with
    channel := ⟨by simpa using hopen, fun hc => closed (by simpa using hc), fun hrun => by simpa using hsent hrun⟩ }

/-- An IDLE engine's channel is closed and empty, and a running one's is closed by the reset (70_reset_and_hazards.md
R281). -/
theorem channelInv_resetBlock (h : channelInv s) : channelInv (resetBlock s) := by
  obtain ⟨hopen, hempty, -⟩ := h
  have hidle : ¬ (resetBlock s).running := by simp [Engine.reset]
  have hclosed : (resetBlock s).chan.isOpen = false ∧ (resetBlock s).chan.inbound = [] := by
    rw [resetBlock_chan]
    split
    · exact ⟨rfl, rfl⟩
    · next hrun =>
      have hc : s.chan.isOpen = false := by simpa [hrun] using hopen
      exact ⟨hc, hempty hc⟩
  exact ⟨by simp only [hclosed.1, hidle, Bool.false_eq_true], fun _ => hclosed.2, fun hrun => absurd hrun hidle⟩

theorem State.Inv.after_resetBlock (h : s.Inv) : (resetBlock s).Inv where
  legal := h.legal
  memory := ⟨wf_nil, nofun⟩
  status := ⟨by simp, by simp, by simp [statusErr, getField], by simp [statusBusy, Engine.reset],
    by simp [Engine.reset], by simp⟩
  frame := ⟨.inl rfl, by simp, fun _ _ _ => rfl⟩
  decode := ⟨by simp, fun _ _ _ => rfl⟩
  channel := channelInv_resetBlock h.channel
  response := responseInv_of_cleared rfl rfl (fun _ _ => rfl) (fun _ _ => rfl)
  engine := by simp [engineInv, Engine.reset]
  result := resultInv_of_none (by simp [statusTxres, getField])

/-! ### The message commands -/

theorem State.Inv.after_clearMessage (h : s.Inv) :
    State.Inv { s with mem := Memory.clear s.mem Buf.msg.base 24, mlen := 0 } := by
  have w : WritesOnly s.cfg .msg s.mem (Memory.clear s.mem Buf.msg.base 24) := writesOnly_clear s.cfg .msg s.mem
  exact { h with
    memory := memoryInv_of_writesOnly h.memory w rfl
    frame := ⟨.inl rfl, by simp, fun j _ hj => by
      rw [read_clear, if_pos (by simp only [Buf.base]; omega)]; rfl⟩
    decode := decodeInv_of_writesOnly h.decode h.legal w nofun rfl rfl
    response := responseInv_of_writesOnly h.response h.legal w nofun nofun rfl rfl rfl rfl }

theorem State.Inv.after_appendBlock (h : s.Inv) (hroom : s.mlen.toNat + 8 ≤ 24) (c0 c1 c2 : Byte) (v : Half) :
    (s.appendBlock (fieldBlock (packName c0 c1 c2) v)).Inv := by
  have w : WritesOnly s.cfg .msg s.mem (Memory.writeBytes s.mem (Buf.msg.addr s.mlen.toNat)
      (fieldBlock (packName c0 c1 c2) v)) := writesOnly_writeBytes hroom s.mem
  exact { h with
    memory := memoryInv_of_writesOnly h.memory w rfl
    frame := frameInv_append h.frame hroom (packName_bit15 c0 c1 c2) rfl
      (by rw [appendBlock_mem, fieldBlock_eq_blockChars]; rfl)
    decode := decodeInv_of_writesOnly h.decode h.legal w nofun rfl rfl
    response := responseInv_of_writesOnly h.response h.legal w nofun nofun rfl rfl rfl rfl }

theorem State.Inv.after_refuseAdd (h : s.Inv) (e : ErrCode) : (s.refuseAdd e).Inv :=
  { h.after_reject e with }

theorem State.Inv.after_addField (h : s.Inv) (val : Option Half) : (addField s val).Inv := by
  rcases addField_cases s val with ⟨-, ha⟩ | ⟨-, -, ha⟩ | ⟨v, hroom, -, ha⟩ <;> rw [ha]
  · exact h.after_refuseAdd .capacity
  · exact h.after_refuseAdd .range
  · exact (h.after_appendBlock hroom _ _ _ v).after_accept _ 0

theorem length_decodedRecords (s : State) (n : Nat) : ((List.range n).flatMap (decodedRecord s)).length = 8 * n := by
  have hrecord (j : Nat) : (decodedRecord s j).length = 8 := rfl
  simp [List.length_flatMap, hrecord, Nat.mul_comm]

theorem decodeMessage_mem (s : State) :
    (decodeMessage s).mem = Memory.writeBytes (Memory.clear s.mem Buf.dout.base (8 * s.cfg.doutCap)) Buf.dout.base
      ((List.range (s.dlen.toNat / 8)).flatMap (decodedRecord s)) := rfl

/-- DCNT holds the number of whole blocks: it is far below 2^32 in a legal configuration. -/
theorem decodeMessage_dcnt (hl : s.cfg.legal = true) (hdlen : s.dlen.toNat ≤ s.cfg.dinCap) :
    (decodeMessage s).dcnt.toNat = s.dlen.toNat / 8 := by
  obtain ⟨hdin, -⟩ := legal_bounds hl
  exact (BitVec.toNat_ofNat (s.dlen.toNat / 8) 32).trans (Nat.mod_eq_of_lt (by omega))

/-- The whole blocks of DIN give no more records than DOUT holds (00_scope.md R5). -/
theorem blocks_le_doutCap (hdlen : s.dlen.toNat ≤ s.cfg.dinCap) : s.dlen.toNat / 8 ≤ s.cfg.doutCap :=
  Nat.div_le_div_right hdlen

/-- MSGDEC clears DOUT, then writes the records from its start (42_message.md R171). -/
theorem writesOnly_decodeMessage (hdlen : s.dlen.toNat ≤ s.cfg.dinCap) :
    WritesOnly s.cfg .dout s.mem (decodeMessage s).mem := by
  have hfit : 0 + ((List.range (s.dlen.toNat / 8)).flatMap (decodedRecord s)).length ≤ Buf.dout.size s.cfg := by
    rw [length_decodedRecords, Nat.zero_add]
    exact Nat.mul_le_mul_left 8 (blocks_le_doutCap hdlen)
  exact (writesOnly_clear s.cfg .dout s.mem).trans (writesOnly_writeBytes hfit _)

theorem decodeInv_decodeMessage (hl : s.cfg.legal = true) (hdlen : s.dlen.toNat ≤ s.cfg.dinCap) :
    decodeInv (decodeMessage s) := by
  unfold decodeInv
  rw [decodeMessage_dcnt hl hdlen]
  refine ⟨blocks_le_doutCap hdlen, fun j hlo hhi => ?_⟩
  rw [decodeMessage_mem, read_writeBytes_other _ _ _ _ (.inr ?_), read_clear,
    if_pos ⟨Nat.le_add_right _ _, Nat.add_lt_add_left hhi _⟩]
  · rfl
  · rw [length_decodedRecords]; exact Nat.add_le_add_left hlo _

theorem State.Inv.after_decodeMessage (h : s.Inv) (hdlen : s.dlen.toNat ≤ s.cfg.dinCap) : (decodeMessage s).Inv := by
  have w := writesOnly_decodeMessage hdlen
  exact { h.after_reject .ok with
    memory := memoryInv_of_writesOnly h.memory w rfl
    frame := frameInv_of_writesOnly h.frame h.legal w nofun rfl
    decode := decodeInv_decodeMessage h.legal hdlen
    response := responseInv_of_writesOnly h.response h.legal w nofun nofun rfl rfl rfl rfl }

/-! ### TXEXEC -/

theorem length_bytesOfHex_le (upper : Bool) (cs : List Byte) : (bytesOfHex upper cs).length ≤ cs.length := by
  induction cs using bytesOfHex.induct with
  | case1 c0 c1 rest ih => simp only [bytesOfHex, List.length_cons]; omega
  | case2 cs hne => simp [bytesOfHex]

theorem length_txUnits_le (upper mode : Bool) (cs : List Byte) : (txUnits upper mode cs).length ≤ cs.length := by
  unfold txUnits
  split
  · exact le_rfl
  · exact length_bytesOfHex_le upper cs

/-- RX and MOFF read 0x00 once cleared (43_transaction.md R200). -/
theorem read_clearResponse (cfg : Config) (m : Memory) (a : Nat)
    (h : Buf.rx.holds cfg a = true ∨ Buf.moff.holds cfg a = true) : Memory.read (clearResponse cfg m) a = 0 := by
  rw [holds_iff, holds_iff] at h
  unfold clearResponse
  rw [read_clear, read_clear]
  simp only [Buf.size] at h
  split
  · rfl
  · next hmoff => rw [if_pos (h.resolve_right hmoff)]; rfl

theorem messageSideInv_startTransaction (h : s.Inv) : messageSideInv (startTransaction s) :=
  have rxCleared : messageSideInv { s with mem := Memory.clear s.mem Buf.rx.base s.cfg.rxCap } :=
    messageSideInv_of_writesOnly h.messageSide h.legal (writesOnly_clear s.cfg .rx s.mem) nofun nofun rfl rfl rfl
  messageSideInv_of_writesOnly rxCleared h.legal (writesOnly_clear s.cfg .moff _) nofun nofun rfl rfl rfl

theorem State.Inv.after_startTransaction (h : s.Inv) (hargs : txArgumentsBad s = false) :
    (startTransaction s).Inv := by
  have hgood := (txArgumentsBad_iff s).not.mp (by simp [hargs])
  have htxlen : s.txlen.toNat ≤ s.cfg.txCap := not_lt.mp (hgood ∘ .inl)
  have hexpect : max s.expect.toNat 1 ≤ s.cfg.moffCap := not_lt.mp (hgood ∘ .inr ∘ .inr)
  have hnone : statusTxres (startTransaction s).status = 0 := by simp [startTransaction, TxRes.code]
  exact { messageSideInv_startTransaction h with
    legal := h.legal
    status := statusInv_of_reservedKept h.status
      ((((reservedKept_setRxovf false _).trans (reservedKept_setTxres .none _)).trans
        (reservedKept_setBusy true _)).trans (reservedKept_setErr .ok _))
      (by simp [startTransaction, ErrCode.code]) (by simp [startTransaction]) (fun _ => hnone) rfl
    channel := ⟨by simp [startTransaction], by simp [startTransaction], by simp [startTransaction]⟩
    response := responseInv_of_cleared rfl rfl
      (fun j hj => read_clearResponse _ _ _ (.inl (holds_addr (b := .rx) hj)))
      (fun j hj => read_clearResponse _ _ _ (.inr (holds_addr (b := .moff) hj)))
    engine := ⟨rfl, Nat.zero_le _, (length_txUnits_le _ _ _).trans ((length_readBytes _ _ _).trans_le htxlen),
      fun _ => ⟨by simp [startTransaction], hexpect⟩, fun _ => le_rfl⟩
    result := resultInv_of_none hnone }

theorem State.Inv.after_exec (h : s.Inv) {i : Instr} {t : State} (hexec : exec i s = .next t) : t.Inv := by
  obtain ⟨t', ht, did⟩ := exec_cases i s
  obtain rfl : t' = t := Host.Outcome.next.inj (ht.symm.trans hexec)
  rcases did with ⟨ra, rb, rfl⟩ | rfl | ⟨val, rfl⟩ | rfl | ⟨hdlen, rfl⟩ | ⟨hargs, rfl⟩
  · exact h.after_accept ra rb
  · exact h.after_clearMessage.after_accept 0 0
  · exact h.after_addField val
  · exact h.after_reject .arg
  · exact h.after_decodeMessage hdlen
  · exact h.after_startTransaction hargs

/-! ### The engine -/

/-- What Finish rests on: the invariant without its clauses on a running engine. A state in which the last expected
marker has just been counted meets this and not `State.Inv`. -/
structure State.FinishReady (s : State) : Prop where
  legal : s.cfg.legal = true
  memory : memoryInv s
  status : statusInv s
  frame : frameInv s
  decode : decodeInv s
  response : responseInv s
  sent : s.txsent.toNat = s.eng.k ∧ s.eng.k ≤ s.eng.units.length ∧ s.eng.units.length ≤ s.cfg.txCap

theorem State.Inv.finishReady (h : s.Inv) : s.FinishReady := by
  obtain ⟨hk, hle, hcap, -, -⟩ := h.engine
  exact { h with sent := ⟨hk, hle, hcap⟩ }

/-- The class Finish writes tells the result (43_transaction.md R210, R211). -/
theorem resultInv_finishTransaction (s : State) : resultInv (finishTransaction s) := by
  unfold resultInv
  simp only [finishTransaction_status, statusTxres_setBusy, statusTxres_setTxres, finishTransaction_eng,
    finishTransaction_mcount, finishTransaction_rxlen, txResult]
  split
  · next hok => exact ⟨fun _ => hok, nofun, nofun⟩
  · next hmissing =>
    have hlt : s.mcount.toNat < s.eng.expect := by omega
    split
    · next hempty => exact ⟨nofun, fun _ => ⟨hlt, hempty⟩, nofun⟩
    · next hsome => exact ⟨nofun, nofun, fun _ => ⟨hlt, hsome⟩⟩

theorem State.FinishReady.after_finishTransaction (h : s.FinishReady) : (finishTransaction s).Inv := by
  obtain ⟨hk, hle, hcap⟩ := h.sent
  obtain ⟨-, -, herr, -, -, -⟩ := h.status
  exact { h with
    status := statusInv_of_reservedKept h.status
      ((reservedKept_setTxres _ _).trans (reservedKept_setBusy false _)) (by simpa using herr) (by simp) nofun rfl
    channel := ⟨by simp, fun _ => rfl, nofun⟩
    engine := ⟨hk, hle, hcap, nofun, nofun⟩
    result := resultInv_finishTransaction s }

theorem State.Inv.after_sample (h : s.Inv) : State.Inv { s with clock := s.clock.sample } := by
  obtain ⟨hk, hle, hcap, hroom, hdeadline⟩ := h.engine
  exact { h with
    engine := ⟨hk, hle, hcap, hroom, fun hrun =>
      (hdeadline hrun).trans (Nat.add_le_add_right (le_sample_last s.clock) _)⟩ }

theorem State.Inv.after_sendPart (h : s.Inv) : (sendPart s).Inv := by
  rcases sendPart_cases s with ⟨u, hu, hs⟩ | ⟨-, hs⟩ <;> rw [hs]
  · obtain ⟨hopen, hempty, hsent⟩ := h.channel
    obtain ⟨-, hle, hcap, hroom, -⟩ := h.engine
    obtain ⟨-, htx, -⟩ := legal_bounds h.legal
    have hlt : s.eng.k < s.eng.units.length := (List.getElem?_eq_some_iff.mp hu).1
    exact { h with
      channel := ⟨hopen, hempty, fun hrun => by simp [hsent hrun, List.take_add_one, hu]⟩
      engine := ⟨by simp; omega, hlt, hcap, hroom, fun _ => le_rfl⟩ }
  · exact h

/-- A marker counted while RUN leaves a state that is ready for Finish. -/
theorem State.Inv.after_countMarker (h : s.Inv) (hrun : s.running) :
    (countMarker s).FinishReady := by
  obtain ⟨-, -, -, hroom, -⟩ := h.engine
  obtain ⟨hexpect, hcap⟩ := hroom hrun
  have w : WritesOnly s.cfg .moff s.mem (countMarker s).mem :=
    writesOnly_writeBytes (by simp only [Buf.size, offsetBytes, List.length_cons, List.length_nil]; omega) s.mem
  have side : messageSideInv (countMarker s) :=
    messageSideInv_of_writesOnly h.messageSide h.legal w nofun nofun rfl rfl rfl
  exact { side, h.finishReady with
    response := responseInv_iff.mpr ⟨rxInv_of_writesOnly h.rx h.legal w nofun rfl rfl rfl,
      moffInv_record h.moff h.legal h.rx.within (hexpect.trans_le hcap) hexpect⟩ }

theorem State.Inv.after_receiveMarker (h : s.Inv) (hrun : s.running) : (receiveMarker s).Inv := by
  have ready := h.after_countMarker hrun
  rw [receiveMarker_eq_count]
  split
  · exact ready.after_finishTransaction
  · next hmore =>
    obtain ⟨hk, hle, hcap, hroom, hdeadline⟩ := h.engine
    exact { ready with
      channel := h.channel
      engine := ⟨hk, hle, hcap, fun hrun => ⟨(not_le.mp hmore).trans_le (le_max_left _ _), (hroom hrun).2⟩, hdeadline⟩
      result := resultInv_of_none (h.txres_of_running hrun) }

theorem State.Inv.after_appendData (h : s.Inv) (hrun : s.running) (hroom : s.rxlen.toNat < s.cfg.rxCap) {b : Byte}
    (hb : b ≠ s.eng.marker) : (appendData s b).Inv := by
  have w : WritesOnly s.cfg .rx s.mem (appendData s b).mem := writesOnly_write (holds_addr (b := .rx) hroom) s.mem b
  have side : messageSideInv (appendData s b) :=
    messageSideInv_of_writesOnly h.messageSide h.legal w nofun nofun rfl rfl rfl
  have hgrows : s.rxlen.toNat ≤ (appendData s b).rxlen.toNat := by
    simp only [appendData, rxlen_succ h.legal hroom]; omega
  exact { side, h with
    response := responseInv_iff.mpr ⟨rxInv_append h.rx h.legal hroom hb,
      moffInv_of_writesOnly h.moff h.legal w nofun rfl rfl rfl hgrows⟩
    result := resultInv_of_none (h.txres_of_running hrun) }

theorem State.Inv.after_receiveData (h : s.Inv) (hrun : s.running) {b : Byte} (hb : b ≠ s.eng.marker) :
    (receiveData s b).Inv := by
  rcases receiveData_cases s b with ⟨hroom, -⟩ | ⟨-, hd⟩
  · rw [receiveData_eq_append s b hroom]
    exact h.after_appendData hrun hroom hb
  · rw [hd]
    exact h.after_setRxovf

/-- Taking the oldest byte off an open channel. -/
theorem State.Inv.after_unread (h : s.Inv) (hrun : s.running) (rest : List Byte) :
    State.Inv { s with chan := { s.chan with inbound := rest } } := by
  obtain ⟨hopen, -, hsent⟩ := h.channel
  exact { h with channel := ⟨hopen, fun hc => absurd (hc.symm.trans (hopen.mpr hrun)) nofun, hsent⟩ }

theorem State.Inv.after_receivePart (h : s.Inv) (hrun : s.running) : (receivePart s).Inv := by
  rcases receivePart_cases s with ⟨-, hr⟩ | ⟨b, rest, -, ⟨-, hr⟩ | ⟨hb, hr⟩⟩ <;> rw [hr]
  · exact h
  · exact (h.after_unread hrun rest).after_receiveMarker hrun
  · exact (h.after_unread hrun rest).after_receiveData hrun hb

theorem sendPart_state (s : State) : (sendPart s).eng.state = s.eng.state := by
  rcases sendPart_cases s with ⟨u, -, hs⟩ | ⟨-, hs⟩ <;> rw [hs]

theorem State.Inv.after_iterate (h : s.Inv) (hrun : s.running) : (iterate s).Inv := by
  have sampled := h.after_sendPart.after_sample
  rcases iterate_cases s with ⟨-, hi⟩ | ⟨-, hi⟩ <;> rw [hi]
  · exact sampled.finishReady.after_finishTransaction
  · exact sampled.after_receivePart ((sendPart_state s).trans hrun)

/-! ### The step -/

/-- Settles O6: each thing a step can do keeps the invariant. -/
theorem stepKeepsTheInvariant : Obligations.StepKeepsTheInvariant := by
  intro s t h hstep
  cases stepDid_of_step hstep with
  | waited rest _ => exact h.withAgenda rest
  | iterated rest hrun => exact (h.withAgenda rest).after_iterate hrun
  | delivered b rest => exact (h.withAgenda rest).after_deliver b
  | wasReset rest _ => exact (h.withAgenda rest).after_resetBlock
  | answered r rest => exact (h.withAgenda rest).withReply (some r)
  | readFailed r rest => exact (h.withAgenda rest).after_busError.withReply (some r)
  | storedReg r v rest _ => exact (h.withAgenda rest).after_writeReg r v
  | storedByte b a v rest hb hbuf =>
    exact (h.withAgenda rest).after_hostByte hbuf (writesOnly_write (holds_iff.mpr (bufAt_holds _ _ _ hb)) s.mem v)
  | writeFailed rest => exact (h.withAgenda rest).after_busError
  | illegal rest => exact (h.withAgenda rest).after_reject .illegal
  | executed i rest _ _ hexec => exact (h.withAgenda rest).after_exec hexec

end Sys2Proof.Machine
end

section
/-! The canonical form of the buffers' memory over a step, from any state (20_memory.md R60, log 7): every store goes
through the memory's own operations, each of which keeps the form. -/

namespace Sys2Proof.Machine

variable {s : State}

@[simp] theorem writeReg_mem (s : State) (r : Reg) (v : Word) : (writeReg s r v).mem = s.mem := by
  cases r <;> rfl

@[simp] theorem sendPart_mem (s : State) : (sendPart s).mem = s.mem := by
  rcases sendPart_cases s with ⟨u, -, hs⟩ | ⟨-, hs⟩ <;> rw [hs]

/-! ### Commands -/

theorem wf_addField (h : Memory.wf s.mem) (val : Option Half) : Memory.wf (addField s val).mem := by
  rcases addField_cases s val with ⟨-, ha⟩ | ⟨-, -, ha⟩ | ⟨v, -, -, ha⟩ <;> rw [ha]
  · exact h
  · exact h
  · exact wf_writeBytes _ _ _ h

theorem wf_decodeMessage (h : Memory.wf s.mem) : Memory.wf (decodeMessage s).mem := by
  rw [decodeMessage_mem]
  exact wf_writeBytes _ _ _ (wf_clear _ _ _ h)

theorem wf_startTransaction (h : Memory.wf s.mem) : Memory.wf (startTransaction s).mem :=
  wf_clear _ _ _ (wf_clear _ _ _ h)

theorem wf_exec {i : Instr} {t : State} (h : Memory.wf s.mem) (hexec : exec i s = .next t) : Memory.wf t.mem := by
  obtain ⟨t', ht, did⟩ := exec_cases i s
  obtain rfl : t' = t := Host.Outcome.next.inj (ht.symm.trans hexec)
  rcases did with ⟨ra, rb, rfl⟩ | rfl | ⟨val, rfl⟩ | rfl | ⟨-, rfl⟩ | ⟨-, rfl⟩
  · exact h
  · exact wf_clear _ _ _ h
  · exact wf_addField h val
  · exact h
  · exact wf_decodeMessage h
  · exact wf_startTransaction h

/-! ### The engine -/

theorem wf_receiveMarker (h : Memory.wf s.mem) : Memory.wf (receiveMarker s).mem := by
  have recorded := wf_writeBytes (offsetBytes s.rxlen) _ (Buf.moff.addr (2 * s.mcount.toNat)) h
  rcases receiveMarker_cases s with ⟨-, hm⟩ | ⟨-, hm⟩ <;> rw [hm] <;> exact recorded

theorem wf_receiveData (h : Memory.wf s.mem) (b : Byte) : Memory.wf (receiveData s b).mem := by
  rcases receiveData_cases s b with ⟨-, hd⟩ | ⟨-, hd⟩ <;> rw [hd]
  · exact wf_write _ _ _ h
  · exact h

theorem wf_receivePart (h : Memory.wf s.mem) : Memory.wf (receivePart s).mem := by
  rcases receivePart_cases s with ⟨-, hr⟩ | ⟨b, rest, -, ⟨-, hr⟩ | ⟨-, hr⟩⟩ <;> rw [hr]
  · exact h
  · exact wf_receiveMarker (s := { s with chan := { s.chan with inbound := rest } }) h
  · exact wf_receiveData (s := { s with chan := { s.chan with inbound := rest } }) h b

theorem wf_iterate (h : Memory.wf s.mem) : Memory.wf (iterate s).mem := by
  have sent : Memory.wf (sendPart s).mem := by rwa [sendPart_mem]
  rcases iterate_cases s with ⟨-, hi⟩ | ⟨-, hi⟩ <;> rw [hi]
  · exact sent
  · exact wf_receivePart (s := { sendPart s with clock := (sendPart s).clock.sample }) sent

/-! ### The step -/

/-- Settles O8: each thing a step can do leaves memory alone, empties it, or changes it by its own operations. -/
theorem stepKeepsMemoryCanonical : Obligations.StepKeepsMemoryCanonical := by
  intro s t h hstep
  cases stepDid_of_step hstep with
  | iterated rest _ => exact wf_iterate (s := { s with agenda := rest }) h
  | executed i rest _ _ hexec => exact wf_exec (s := { s with agenda := rest }) h hexec
  | storedByte b a v rest _ _ => exact wf_write s.mem a v h
  | storedReg r v rest _ => rwa [writeReg_mem]
  | wasReset rest _ => exact wf_nil
  | waited rest _ => exact h
  | delivered b rest => exact h
  | answered r rest => exact h
  | readFailed r rest => exact h
  | writeFailed rest => exact h
  | illegal rest => exact h

end Sys2Proof.Machine
end

section
/-! The host bus: what an admitted access does and leaves unchanged, and that every other access is a bus error
(20_memory.md R60-R65). -/

namespace Sys2Proof.Machine

/-! ### The address map -/

theorem addr_aligned (r : Reg) : r.addr.toNat % 4 = 0 := by cases r <;> rfl

theorem addr_le_last (r : Reg) : r.addr.toNat ≤ 0x43 := by cases r <;> decide

/-- The registers the host owns are those it may both read and write (10_state.md R20). -/
theorem mem_hostOwned_iff (r : Reg) : r ∈ hostOwned ↔ r.access = .rw := by cases r <;> decide

/-- An implemented address is found by the address map as the buffer it lies in: no two windows overlap. -/
theorem bufAt_base_add {cfg : Config} (hl : cfg.legal = true) {b : Buf} {i : Nat} (hi : i < b.size cfg) :
    bufAt cfg (b.base + i) = some b := by
  obtain ⟨c, hc⟩ := Option.isSome_iff_exists.mp (bufAt_isSome_of_holds (holds_addr hi))
  obtain rfl : c = b := by
    by_contra hne
    exact absurd (holds_iff.mpr (bufAt_holds _ _ _ hc)) (Bool.eq_false_iff.mp (not_holds_of_ne hl hne hi))
  exact hc

/-- Every implemented byte lies within the 12 address bits. -/
theorem toNat_base_add {cfg : Config} (hl : cfg.legal = true) {b : Buf} {i : Nat} (hi : i < b.size cfg) :
    (BitVec.ofNat 12 (b.base + i)).toNat = b.base + i := by
  have hpage := addr_div_page hl hi
  have hbase : b.base / 0x200 < 8 := by cases b <;> decide
  rw [BitVec.toNat_ofNat]
  omega

/-- The bus address of an implemented byte is found as its buffer's. -/
theorem bufAt_busAddress {cfg : Config} (hl : cfg.legal = true) {b : Buf} {i : Nat} (hi : i < b.size cfg) :
    bufAt cfg (BitVec.ofNat 12 (b.base + i)).toNat = some b := by
  rw [toNat_base_add hl hi, bufAt_base_add hl hi]

/-! ### Reads -/

theorem hostRead_of_value {s : State} {width : Nat} {addr : HostAddr} {v : Word}
    (h : readValue s width addr = some v) :
    hostRead s width addr = { s with reply := some { width := width, data := v } } := by
  unfold hostRead
  rw [h]

theorem readValue_reg (s : State) (r : Reg) : readValue s 32 r.addr = some (readReg s r) := by
  unfold readValue
  rw [if_pos rfl, (regAt_eq_some r.addr r).mpr rfl]
  rfl

theorem readValue_buf {s : State} {b : Buf} {addr : HostAddr} (h : bufAt s.cfg addr.toNat = some b) :
    readValue s 8 addr = some ((Memory.read s.mem addr.toNat).setWidth 32) := by
  unfold readValue
  rw [if_neg (by decide), if_pos rfl, h]
  rfl

/-- Settles O17: the address of a register is found as that register. -/
theorem registerReadAnswersWithoutSideEffect : Obligations.RegisterReadAnswersWithoutSideEffect := by
  intro s r
  exact congrArg Host.Outcome.next (hostRead_of_value (readValue_reg s r))

/-- Settles O18: an implemented address fits the bus and is found as a buffer's. -/
theorem bufferReadAnswersWithoutSideEffect : Obligations.BufferReadAnswersWithoutSideEffect := by
  intro s b i hl hi
  have hread := hostRead_of_value (readValue_buf (bufAt_busAddress hl hi))
  rw [toNat_base_add hl hi] at hread
  exact congrArg Host.Outcome.next hread

/-! ### Writes -/

/-- A register the host owns reads what was stored, TXCFG its fields only (10_state.md R23, R29). -/
theorem readReg_writeReg_same (s : State) {r : Reg} (v : Word) (h : r.access = .rw) :
    readReg (writeReg s r v) r = if r = .txcfg then v &&& 0x0000FF01 else v := by
  cases r <;> cases h <;> rfl

/-- Settles O19: the write stores into the register, and a store changes that register alone. -/
theorem registerWriteStoresTheValue : Obligations.RegisterWriteStoresTheValue := by
  intro s r v hr
  have hrw := (mem_hostOwned_iff r).mp hr
  refine ⟨writeReg s r v, hostWrite_reg s r v hrw, readReg_writeReg_same s v hrw,
    fun q hq => readReg_writeReg_other s v hq, writeReg_mem s r v, ?_⟩
  cases r <;> exact ⟨rfl, rfl, rfl, rfl, rfl, rfl⟩

/-- An 8-bit write at an address of a buffer the host may write stores the low byte there. -/
theorem hostWrite_buf {s : State} {b : Buf} {addr : HostAddr} (v : Word) (h : bufAt s.cfg addr.toNat = some b)
    (hw : b.hostWritable = true) :
    hostWrite s 8 addr v = .next { s with mem := Memory.write s.mem addr.toNat (v.extractLsb' 0 8) } := by
  unfold hostWrite
  rw [if_neg (by decide), if_pos rfl, h]
  simp only [hostBufWrite, hw, if_true]

/-- Settles O20: the write is one store into memory. -/
theorem bufferWriteStoresTheByte : Obligations.BufferWriteStoresTheByte := by
  intro s b i v hl hb hi
  have hwritable : b.hostWritable = true := by rcases hb with rfl | rfl <;> rfl
  have hwrite := hostWrite_buf v (bufAt_busAddress hl hi) hwritable
  rw [toNat_base_add hl hi] at hwrite
  exact ⟨_, hwrite, read_write_same _ _ _, fun a ha => read_write_other _ _ _ _ ha, rfl⟩

/-! ### Accesses that no rule admits -/

/-- A read that answers a value is one that some rule admits. -/
theorem admitted_of_readValue {s : State} {width : Nat} {addr : HostAddr} {v : Word}
    (h : readValue s width addr = some v) : HostAccess.admitted s.cfg (.read width addr) := by
  unfold readValue at h
  split at h
  · next h32 =>
    obtain ⟨r, hr, -⟩ := Option.map_eq_some_iff.mp h
    obtain rfl := (regAt_eq_some addr r).mp hr
    exact .inl ⟨h32, addr_aligned r, addr_le_last r⟩
  · split at h
    · next h8 =>
      obtain ⟨b, hb, -⟩ := Option.map_eq_some_iff.mp h
      exact .inr ⟨h8, b, bufAt_holds _ _ _ hb⟩
    · cases h

theorem hostRead_of_unadmitted {s : State} {width : Nat} {addr : HostAddr}
    (h : ¬ HostAccess.admitted s.cfg (.read width addr)) :
    hostRead s width addr = { s.busError with reply := some { width := width, data := 0 } } := by
  rcases hostRead_cases s width addr with ⟨v, hv, -⟩ | ⟨-, hr⟩
  · exact absurd (admitted_of_readValue hv) h
  · exact hr

/-- Of all that a host write can do, only the bus error is left where no rule admits it. -/
theorem hostWrite_of_unadmitted {s : State} {width : Nat} {addr : HostAddr} {v : Word}
    (h : ¬ HostAccess.admitted s.cfg (.write width addr v)) : hostWrite s width addr v = .next s.busError := by
  rcases hostWrite_cases s width addr v with ⟨h32, ha, -⟩ | ⟨r, h32, hrw, ha, -⟩ | ⟨b, h8, hb, hbuf, -⟩ | hw
  · exact absurd (.inl ⟨h32, .inl ha⟩) h
  · exact absurd (.inl ⟨h32, .inr ⟨r, (mem_hostOwned_iff r).mpr hrw, ha⟩⟩) h
  · exact absurd (.inr ⟨h8, b, hbuf, bufAt_holds _ _ _ hb⟩) h
  · exact hw

theorem berrWritten_setBerr (w : Word) : berrWritten w (setBerr w) :=
  ⟨statusBerr_setBerr w, fun k hk => by rw [getLsbD_setBerr, if_neg hk]⟩

/-- Settles O21: a read and a write that no rule admits are each a bus error. -/
theorem unadmittedAccessIsABusError : Obligations.UnadmittedAccessIsABusError := by
  intro s a h
  cases a with
  | read width addr =>
    refine ⟨_, congrArg Host.Outcome.next (hostRead_of_unadmitted h), berrWritten_setBerr s.status, rfl, ?_, ?_⟩
    · rintro _ _ ⟨⟩; rfl
    · rintro _ _ _ ⟨⟩
  | write width addr v =>
    refine ⟨_, hostWrite_of_unadmitted h, berrWritten_setBerr s.status, rfl, ?_, ?_⟩
    · rintro _ _ ⟨⟩
    · rintro _ _ _ ⟨⟩; rfl

end Sys2Proof.Machine
end

section
/-! Command words: decoding and encoding are inverse, the words that decode are the well-formed ones, and what issuing a
word then does (30_encoding.md R90-R95). -/

namespace Sys2Proof

/-! ### The opcode map -/

/-- The opcodes that 30_encoding.md R95 lists as illegal. -/
abbrev unassignedOpcode (opc : Nat) : Prop :=
  opc = 0x00 ∨ (0x08 ≤ opc ∧ opc ≤ 0x0F) ∨ (0x14 ≤ opc ∧ opc ≤ 0x1F) ∨ (0x25 ≤ opc ∧ opc ≤ 0x2F) ∨ 0x31 ≤ opc

theorem instrOfOpcode_opcodeOf (i : Instr) : instrOfOpcode (opcodeOf i) = some i := by cases i <;> rfl

/-- No command has two opcodes: the arm that answers it names its own. -/
theorem opcodeOf_of_instrOfOpcode {opc : Byte} {i : Instr} (h : instrOfOpcode opc = some i) : opcodeOf i = opc := by
  unfold instrOfOpcode at h
  split at h <;> cases h <;> rfl

theorem instrOfOpcode_eq_some_iff (opc : Byte) (i : Instr) : instrOfOpcode opc = some i ↔ opcodeOf i = opc :=
  ⟨opcodeOf_of_instrOfOpcode, fun h => h ▸ instrOfOpcode_opcodeOf i⟩

/-- The opcode map leaves out exactly the ranges of R95: a check of all 256 opcodes. -/
theorem instrOfOpcode_eq_none_iff : ∀ opc : Byte, instrOfOpcode opc = none ↔ unassignedOpcode opc.toNat := by decide

/-! ### The two fields of a word -/

/-- A word is the two fields it is made of (R90). -/
theorem eq_append_iff (w : Word) (rsv : BitVec 24) (opc : Byte) :
    w = rsv ++ opc ↔ rsvField w = rsv ∧ opcField w = opc := by
  constructor
  · rintro rfl
    exact ⟨BitVec.extractLsb'_append_eq_left, BitVec.extractLsb'_append_eq_right⟩
  · rintro ⟨rfl, rfl⟩
    exact (BitVec.extractLsb'_append_extractLsb' (w := 24) (len := 8)).symm

theorem opcodeAssigned_iff (w : Word) :
    CommandWord.opcodeAssigned w = true ↔ ¬ unassignedOpcode (opcField w).toNat := by
  have hlt : (opcField w).toNat ≤ 0xFF := Nat.le_of_lt_succ (opcField w).isLt
  simp only [CommandWord.opcodeAssigned, Bool.not_eq_true', ← Bool.not_eq_true, Bool.or_eq_true, Bool.and_eq_true,
    beq_iff_eq, decide_eq_true_eq]
  unfold opcField at hlt ⊢
  omega

/-- What R95 calls legal, by its two fields. -/
theorem wellFormed_iff (w : Word) :
    CommandWord.wellFormed w = true ↔ rsvField w = 0#24 ∧ ¬ unassignedOpcode (opcField w).toNat := by
  rw [CommandWord.wellFormed, Bool.and_eq_true, opcodeAssigned_iff, CommandWord.reservedClear, beq_iff_eq, rsvField]

/-! ### Decoding -/

theorem decode_eq_ok_iff (w : Word) (i : Instr) :
    decode w = .ok i ↔ rsvField w = 0#24 ∧ instrOfOpcode (opcField w) = some i := by
  unfold decode
  split
  · next hrsv => exact ⟨nofun, fun ⟨hzero, _⟩ => absurd hzero hrsv⟩
  · next hrsv =>
    cases instrOfOpcode (opcField w) with
    | none => exact ⟨nofun, nofun⟩
    | some j =>
      have hzero : rsvField w = 0#24 := not_not.mp hrsv
      simp [hzero]

theorem decode_eq_ok_iff_eq_encode (w : Word) (i : Instr) : decode w = .ok i ↔ w = encode i := by
  rw [decode_eq_ok_iff, instrOfOpcode_eq_some_iff, encode, eq_append_iff, eq_comm (a := opcodeOf i)]

theorem decode_encode (i : Instr) : decode (encode i) = .ok i := (decode_eq_ok_iff_eq_encode _ i).mpr rfl

theorem exists_decode_eq_ok_iff (w : Word) : (∃ i, decode w = .ok i) ↔ CommandWord.wellFormed w = true := by
  simp only [decode_eq_ok_iff, exists_and_left, wellFormed_iff, ← instrOfOpcode_eq_none_iff,
    Option.ne_none_iff_exists']

/-- Settles O2: both maps split a word into the same two fields, and the opcode map inverts. -/
theorem decodesExactlyTheOpcodeMap : Obligations.DecodesExactlyTheOpcodeMap :=
  ⟨decode_eq_ok_iff_eq_encode, exists_decode_eq_ok_iff⟩

/-- Settles O1: each word is the encoding of its command. -/
theorem decodesWrittenWords : Obligations.DecodesWrittenWords :=
  ⟨decode_encode .hexencB, decode_encode .hexdecW, decode_encode .namepack, decode_encode .msgaddi, decode_encode .txexec⟩

end Sys2Proof

namespace Sys2Proof.Machine

/-! ### A rejected command -/

theorem errWritten_setErr (e : ErrCode) (w : Word) : errWritten e.code w (setErr e w) :=
  ⟨statusErr_setErr e w, fun k hk => by rw [getLsbD_setErr, if_neg (by omega)]⟩

theorem hostSideKept_reject (s : State) (e : ErrCode) : HostSideKept s (s.reject e) := by constructor <;> rfl

theorem engineKept_reject (s : State) (e : ErrCode) : EngineKept s (s.reject e) := by constructor <;> rfl

/-- Rejection writes ERR and nothing else, whatever its code (60_exceptions.md R254). -/
theorem rejectedWith_reject (s : State) (e : ErrCode) : rejectedWith e.code s (.next (s.reject e)) :=
  ⟨_, rfl, errWritten_setErr e s.status, hostSideKept_reject s e, engineKept_reject s e, rfl, rfl, rfl, rfl, fun _ => rfl⟩

/-! ### Issuing a word while no transaction runs (R91) -/

section
variable {s : State} {w : Word}

theorem issue_of_decode_eq_ok {i : Instr} (hidle : statusBusy s.status = false) (hdec : decode w = .ok i) :
    issue w s = exec i s := by
  rcases issue_cases w s with ⟨hbusy, -⟩ | ⟨-, ⟨e, herr⟩, -⟩ | ⟨j, -, hj, hissue⟩
  · simp [hidle] at hbusy
  · simp [hdec] at herr
  · obtain rfl : j = i := Except.ok.inj (hj.symm.trans hdec)
    exact hissue

theorem issue_of_not_wellFormed (hidle : statusBusy s.status = false) (hill : ¬ CommandWord.wellFormed w = true) :
    issue w s = .next (s.reject .illegal) := by
  rcases issue_cases w s with ⟨hbusy, -⟩ | ⟨-, -, hissue⟩ | ⟨i, -, hi, -⟩
  · simp [hidle] at hbusy
  · exact hissue
  · exact absurd ((exists_decode_eq_ok_iff w).mp ⟨i, hi⟩) hill

end

/-- Settles O3: the word is not well-formed, so it is rejected. -/
theorem illegalWordWritesOnlyErr : Obligations.IllegalWordWritesOnlyErr := by
  intro s w hidle hillegal
  have hill : ¬ CommandWord.wellFormed w = true := by
    rw [wellFormed_iff, not_and_or, not_not]
    exact hillegal
  rw [issue_of_not_wellFormed hidle hill]
  exact rejectedWith_reject s .illegal

/-! ### The step that takes a CMD write -/

theorem step_of_agenda_eq_cmd {s : State} {w : Word} {rest : List Event}
    (ha : s.agenda = .host (.write 32 0x000 w) :: rest) : step s = issue w { s with agenda := rest } := by
  unfold step nextEvent
  rw [ha]
  exact hostWrite_cmd _ w

/-- Settles O4: the step issues the word, and issuing it runs what it decodes to. -/
theorem stepRunsTheDecodedCommand : Obligations.StepRunsTheDecodedCommand := by
  intro s w i rest ha hidle hdec
  rw [step_of_agenda_eq_cmd ha]
  exact issue_of_decode_eq_ok hidle hdec

end Sys2Proof.Machine
end

section
/-! The hex codec: its digits, the bytes, halves and words they stand for, what each of its seven commands does, and that
encoding and decoding invert each other (40_hexcodec.md R110-R119). -/

namespace Sys2Proof.Machine

/-! ### Slices of bit vectors -/

theorem extractLsb'_extractLsb' {n : Nat} (x : BitVec n) {a len b m : Nat} (h : b + m ≤ len) :
    (x.extractLsb' a len).extractLsb' b m = x.extractLsb' (a + b) m := by
  apply BitVec.eq_of_getLsbD_eq
  intro i hi
  simp [hi, show b + i < len by omega, Nat.add_assoc]

/-! ### The four characters of a register (20_memory.md R68) -/

/-- Two registers are equal exactly when they hold the same four characters. -/
theorem eq_iff_lane_eq {v w : Word} : v = w ↔ ∀ k < 4, lane v k = lane w k := by
  refine ⟨fun h _ _ => h ▸ rfl, fun h => BitVec.eq_of_getLsbD_eq fun i hi => ?_⟩
  have hbit := congrArg (fun c : Byte => c.getLsbD (i % 8)) (h (i / 8) (by omega))
  simpa [lane, Nat.mod_lt, Nat.div_add_mod] using hbit

theorem lane_lanes (c0 c1 c2 c3 : Byte) :
    lane (lanes c0 c1 c2 c3) 0 = c0 ∧ lane (lanes c0 c1 c2 c3) 1 = c1 ∧ lane (lanes c0 c1 c2 c3) 2 = c2
      ∧ lane (lanes c0 c1 c2 c3) 3 = c3 := by
  unfold lane lanes
  refine ⟨BitVec.extractLsb'_append_eq_right, ?_, ?_, ?_⟩
  · rw [BitVec.extractLsb'_append_eq_of_le (by decide)]
    exact BitVec.extractLsb'_append_eq_right
  · rw [BitVec.extractLsb'_append_eq_of_le (by decide), BitVec.extractLsb'_append_eq_of_le (by decide)]
    exact BitVec.extractLsb'_append_eq_right
  · rw [BitVec.extractLsb'_append_eq_of_le (by decide), BitVec.extractLsb'_append_eq_of_le (by decide)]
    exact BitVec.extractLsb'_append_eq_left

/-- Character `k` of a register filled from a list. -/
theorem lane_wordOfChars (cs : List Byte) {k : Nat} (hk : k < 4) : lane (wordOfChars cs) k = cs.getD k 0 := by
  obtain ⟨h0, h1, h2, h3⟩ := lane_lanes (cs.getD 0 0) (cs.getD 1 0) (cs.getD 2 0) (cs.getD 3 0)
  interval_cases k
  · exact h0
  · exact h1
  · exact h2
  · exact h3

/-! ### The digit functions (R110, R111) -/

theorem toNat_hexchar_of_le {n : BitVec 4} (h : n.toNat ≤ 9) : (hexchar n).toNat = 0x30 + n.toNat := by
  rw [hexchar, if_pos h]
  bv_omega

theorem toNat_hexchar_of_ge {n : BitVec 4} (h : 10 ≤ n.toNat) : (hexchar n).toNat = 0x61 + (n.toNat - 10) := by
  rw [hexchar, if_neg (by omega)]
  bv_omega

/-- The characters an encoder can give: '0'-'9' and 'a'-'f'. -/
abbrev isLowerHex (c : Byte) : Prop :=
  (0x30 ≤ c.toNat ∧ c.toNat ≤ 0x39) ∨ (0x61 ≤ c.toNat ∧ c.toNat ≤ 0x66)

theorem isLowerHex_hexchar (n : BitVec 4) : isLowerHex (hexchar n) := by
  rcases Nat.lt_or_ge n.toNat 10 with h | h
  · have := toNat_hexchar_of_le (n := n) (by omega)
    omega
  · have := toNat_hexchar_of_ge h
    omega

/-- Settles O22: both ranges are lower-case digits, so no upper-case letter is among them. -/
theorem hexcharIsLowercaseAscii : Obligations.HexcharIsLowercaseAscii := by
  refine fun n => ⟨toNat_hexchar_of_le, toNat_hexchar_of_ge, fun ⟨hlo, hhi⟩ => ?_⟩
  have hlower := isLowerHex_hexchar n
  bv_omega

/-- The ranges of bytes as ranges of numbers. -/
theorem hexDigit_eq (upper : Bool) (c : Byte) :
    hexDigit upper c =
      if 0x30 ≤ c.toNat ∧ c.toNat ≤ 0x39 then some ((c - 0x30).setWidth 4)
      else if 0x61 ≤ c.toNat ∧ c.toNat ≤ 0x66 then some ((c - 0x61 + 10).setWidth 4)
      else if upper = true ∧ 0x41 ≤ c.toNat ∧ c.toNat ≤ 0x46 then some ((c - 0x41 + 10).setWidth 4)
      else none := rfl

/-- Settles O23: the ranges are the branches of the definition. -/
theorem hexvalFollowsTheByteRanges : Obligations.HexvalFollowsTheByteRanges := by
  intro upper c
  rw [hexval, hexvalid, hexDigit_eq]
  split_ifs
  case neg => exact ⟨rfl, rfl⟩
  all_goals
    refine ⟨?_, rfl⟩
    rw [Option.getD_some]
    bv_omega

theorem hexDigit_hexchar : ∀ (upper : Bool) (n : BitVec 4), hexDigit upper (hexchar n) = some n := by decide

@[simp] theorem hexval_hexchar (upper : Bool) (n : BitVec 4) : hexval upper (hexchar n) = n := by
  rw [hexval, hexDigit_hexchar, Option.getD_some]

@[simp] theorem hexvalid_hexchar (upper : Bool) (n : BitVec 4) : hexvalid upper (hexchar n) = true := by
  rw [hexvalid, hexDigit_hexchar, Option.isSome_some]

/-- A character is the digit of its value exactly when it is a lower-case digit: an upper-case one comes back lower-case and
an invalid one as '0' (R119). -/
theorem hexchar_hexval_eq_iff (upper : Bool) (c : Byte) : hexchar (hexval upper c) = c ↔ isLowerHex c := by
  refine ⟨fun h => h ▸ isLowerHex_hexchar _, fun h => BitVec.eq_of_toNat_eq ?_⟩
  have hval := hexvalFollowsTheByteRanges upper c
  rcases h with h | h
  · rw [if_pos h] at hval
    rw [toNat_hexchar_of_le (by omega)]
    omega
  · rw [if_neg (by omega), if_pos h] at hval
    rw [toNat_hexchar_of_ge (by omega)]
    omega

/-! ### Bytes, halves and words (20_memory.md R67) -/

theorem byteOfHex_nibbles (upper : Bool) (b : Byte) :
    byteOfHex upper (hexchar (b.extractLsb' 4 4)) (hexchar (b.extractLsb' 0 4)) = b := by
  rw [byteOfHex, hexval_hexchar, hexval_hexchar]
  exact BitVec.extractLsb'_append_extractLsb' (w := 4) (len := 4)

theorem hexOfByte_byteOfHex (upper : Bool) (c0 c1 : Byte) :
    hexOfByte (byteOfHex upper c0 c1) = [hexchar (hexval upper c0), hexchar (hexval upper c1)] := by
  have hhigh : (byteOfHex upper c0 c1).extractLsb' 4 4 = hexval upper c0 := BitVec.extractLsb'_append_eq_left
  have hlow : (byteOfHex upper c0 c1).extractLsb' 0 4 = hexval upper c1 := BitVec.extractLsb'_append_eq_right
  rw [hexOfByte, hhigh, hlow]

theorem hexOfHalf_halfOfHex (upper : Bool) (c0 c1 c2 c3 : Byte) :
    hexOfHalf (halfOfHex upper c0 c1 c2 c3) =
      [hexchar (hexval upper c0), hexchar (hexval upper c1), hexchar (hexval upper c2), hexchar (hexval upper c3)] := by
  have hhigh : (halfOfHex upper c0 c1 c2 c3).extractLsb' 8 8 = byteOfHex upper c2 c3 :=
    BitVec.extractLsb'_append_eq_left
  have hlow : (halfOfHex upper c0 c1 c2 c3).extractLsb' 0 8 = byteOfHex upper c0 c1 :=
    BitVec.extractLsb'_append_eq_right
  rw [hexOfHalf, hhigh, hlow, hexOfByte_byteOfHex, hexOfByte_byteOfHex]
  rfl

/-- The half that the four characters of a register stand for. -/
def halfOfLanes (upper : Bool) (w : Word) : Half := halfOfHex upper (lane w 0) (lane w 1) (lane w 2) (lane w 3)

/-- A byte written into a register by its characters is the byte that they stand for. -/
theorem byteOfHex_lane_hexOfByte (upper : Bool) (b : Byte) :
    byteOfHex upper (lane (wordOfChars (hexOfByte b)) 0) (lane (wordOfChars (hexOfByte b)) 1) = b := by
  rw [lane_wordOfChars _ (by decide), lane_wordOfChars _ (by decide)]
  exact byteOfHex_nibbles upper b

/-- A half written into a register by its characters is the half that they stand for. -/
theorem halfOfLanes_hexOfHalf (upper : Bool) (v : Half) : halfOfLanes upper (wordOfChars (hexOfHalf v)) = v := by
  have hlow := byteOfHex_nibbles upper (v.extractLsb' 0 8)
  have hhigh := byteOfHex_nibbles upper (v.extractLsb' 8 8)
  simp only [halfOfLanes, lane_wordOfChars, Nat.reduceLT, hexOfHalf, hexOfByte, halfOfHex, List.cons_append,
    List.nil_append, List.getD_cons_zero, List.getD_cons_succ, hlow, hhigh]
  exact BitVec.extractLsb'_append_extractLsb' (w := 8) (len := 8)

/-- The byte that a register's first two characters stand for, written by its characters. -/
theorem lane_hexOfByte_byteOfHex (upper : Bool) (w : Word) {k : Nat} (hk : k < 2) :
    lane (wordOfChars (hexOfByte (byteOfHex upper (lane w 0) (lane w 1)))) k = hexchar (hexval upper (lane w k)) := by
  rw [lane_wordOfChars _ (by omega), hexOfByte_byteOfHex]
  interval_cases k <;> rfl

/-- The half that a register's characters stand for, written by its characters: each is the lower-case digit of its value. -/
theorem lane_hexOfHalf_halfOfLanes (upper : Bool) (w : Word) {k : Nat} (hk : k < 4) :
    lane (wordOfChars (hexOfHalf (halfOfLanes upper w))) k = hexchar (hexval upper (lane w k)) := by
  rw [lane_wordOfChars _ hk, halfOfLanes, hexOfHalf_halfOfHex]
  interval_cases k <;> rfl

/-- HEXENC.B's result holds digits only in its two characters. -/
theorem hexvalid_lane_hexOfByte (upper : Bool) (b : Byte) {k : Nat} (hk : k < 2) :
    hexvalid upper (lane (wordOfChars (hexOfByte b)) k) = true := by
  rw [lane_wordOfChars _ (by omega)]
  interval_cases k <;> exact hexvalid_hexchar _ _

/-- A half written by its characters holds digits only. -/
theorem hexvalid_lane_hexOfHalf (upper : Bool) (v : Half) {k : Nat} (hk : k < 4) :
    hexvalid upper (lane (wordOfChars (hexOfHalf v)) k) = true := by
  rw [lane_wordOfChars _ hk]
  interval_cases k <;> exact hexvalid_hexchar _ _

/-- Two characters leave the upper half of a register 0. -/
theorem wordOfChars_pair (c0 c1 : Byte) : wordOfChars [c0, c1] = 0#16 ++ c1 ++ c0 :=
  congrArg (fun high : Half => high ++ c1 ++ c0) (by decide : 0#8 ++ 0#8 = 0#16)

/-- HEXENC.B's result has nothing above its two characters (R112). -/
theorem extractLsb'_wordOfChars_hexOfByte (b : Byte) : (wordOfChars (hexOfByte b)).extractLsb' 16 16 = 0#16 := by
  rw [hexOfByte, wordOfChars_pair, BitVec.extractLsb'_append_eq_of_le (by decide)]
  exact BitVec.extractLsb'_append_eq_left

/-! ### The mask of invalid characters -/

theorem invalidMask_eq_zero {upper : Bool} {cs : List Byte} (h : ∀ c ∈ cs, hexvalid upper c = true) :
    invalidMask upper cs = 0 := by
  induction cs with
  | nil => rfl
  | cons c rest ih =>
    obtain ⟨hc, hrest⟩ := List.forall_mem_cons.mp h
    rw [invalidMask, ih hrest, if_pos hc]
    rfl

/-- The bit of a character in the mask, set where it is invalid (R116-R118). -/
abbrev invalidBit (upper : Bool) (c : Byte) : BitVec 1 := BitVec.ofBool (!hexvalid upper c)

theorem invalidMask_singleton (upper : Bool) (c : Byte) : invalidMask upper [c] = (invalidBit upper c).setWidth 32 := by
  rw [invalidMask, invalidMask]
  cases h : hexvalid upper c <;> simp [invalidBit, h]

/-- The mask's low bit is the first character's, the others are the mask of the rest. -/
theorem invalidMask_cons {upper : Bool} {c : Byte} {rest : List Byte} {n : Nat} {m : BitVec n}
    (h : invalidMask upper rest = m.setWidth 32) :
    invalidMask upper (c :: rest) = (m ++ invalidBit upper c).setWidth 32 := by
  rw [invalidMask, h]
  apply BitVec.eq_of_getLsbD_eq
  intro i hi
  cases i with
  | zero => cases hv : hexvalid upper c <;> simp [BitVec.getElem_append, hv]
  | succ i => cases hv : hexvalid upper c <;> simp [BitVec.getLsbD_append, hi]

/-! ### What each command does -/

section
variable (s : State)

theorem exec_hexencB : exec .hexencB s = .next (s.accept (wordOfChars (hexOfByte (s.opa.extractLsb' 0 8))) 0) := rfl

theorem exec_hexencH : exec .hexencH s = .next (s.accept (wordOfChars (hexOfHalf (s.opa.extractLsb' 0 16))) 0) := rfl

theorem exec_hexencW : exec .hexencW s = .next (s.accept (wordOfChars (hexOfHalf (s.opa.extractLsb' 0 16)))
    (wordOfChars (hexOfHalf (s.opa.extractLsb' 16 16)))) := rfl

theorem exec_hexdig : exec .hexdig s = .next (s.accept ((hexval s.cfg.hexUpper (s.opa.extractLsb' 0 8)).setWidth 32)
    (if hexvalid s.cfg.hexUpper (s.opa.extractLsb' 0 8) then 1 else 0)) := rfl

theorem exec_hexdecB : exec .hexdecB s = .next (s.accept
    ((byteOfHex s.cfg.hexUpper (lane s.opa 0) (lane s.opa 1)).setWidth 32)
    (invalidMask s.cfg.hexUpper [lane s.opa 0, lane s.opa 1])) := rfl

theorem exec_hexdecH : exec .hexdecH s = .next (s.accept ((halfOfLanes s.cfg.hexUpper s.opa).setWidth 32)
    (invalidMask s.cfg.hexUpper [lane s.opa 0, lane s.opa 1, lane s.opa 2, lane s.opa 3])) := rfl

theorem exec_hexdecW : exec .hexdecW s = .next (s.accept
    (halfOfLanes s.cfg.hexUpper s.opb ++ halfOfLanes s.cfg.hexUpper s.opa)
    (invalidMask s.cfg.hexUpper [lane s.opa 0, lane s.opa 1, lane s.opa 2, lane s.opa 3,
      lane s.opb 0, lane s.opb 1, lane s.opb 2, lane s.opb 3])) := rfl

end

/-- A command whose every run is an acceptance writes RESA, RESB and ERR = OK only (R120). -/
theorem resultCommand_of_accept {w : Word} {i : Instr} {ra rb : State → Word} (hw : w = encode i)
    (h : ∀ s, exec i s = .next (s.accept (ra s) (rb s))) : resultCommand w i ra rb :=
  ⟨(decode_eq_ok_iff_eq_encode w i).mpr hw, fun s => ⟨_, h s, rfl, rfl, errWritten_setErr .ok s.status,
    by constructor <;> rfl, by constructor <;> rfl, rfl, rfl, fun _ => rfl⟩⟩

/-- The four characters of the half at bit `lo` of a longer value, by its nibbles. -/
theorem hexOfHalf_extractLsb' {n : Nat} (x : BitVec n) (lo : Nat) :
    hexOfHalf (x.extractLsb' lo 16) =
      [hexchar (x.extractLsb' (lo + 4) 4), hexchar (x.extractLsb' lo 4),
        hexchar (x.extractLsb' (lo + 12) 4), hexchar (x.extractLsb' (lo + 8) 4)] := by
  simp [hexOfHalf, hexOfByte, extractLsb'_extractLsb', Nat.add_assoc]

/-- Settles O24: the characters by their nibbles, at each width. -/
theorem hexEncodersGiveTheDigits : Obligations.HexEncodersGiveTheDigits := by
  refine ⟨resultCommand_of_accept rfl fun s => ?_, resultCommand_of_accept rfl fun s => ?_,
    resultCommand_of_accept rfl fun s => ?_⟩
  · rw [exec_hexencB, hexOfByte, extractLsb'_extractLsb' _ (by decide), extractLsb'_extractLsb' _ (by decide),
      wordOfChars_pair]
  · rw [exec_hexencH, hexOfHalf_extractLsb']
    rfl
  · rw [exec_hexencW, hexOfHalf_extractLsb', hexOfHalf_extractLsb']
    rfl

/-- Settles O25: RESB is the validity as a number. -/
theorem hexdigResult : Obligations.HexdigResult := by
  refine resultCommand_of_accept rfl fun s => ?_
  rw [exec_hexdig]
  cases hexvalid s.cfg.hexUpper (s.opa.extractLsb' 0 8) <;> rfl

/-- A byte's two nibbles behind whatever stands above it. -/
theorem append_byteOfHex {n : Nat} (x : BitVec n) (upper : Bool) (c0 c1 : Byte) :
    x ++ byteOfHex upper c0 c1 = x ++ hexval upper c0 ++ hexval upper c1 := by
  rw [BitVec.append_assoc]
  rfl

/-- The half of a register's characters, by its nibbles. -/
theorem halfOfLanes_eq_append (upper : Bool) (w : Word) :
    halfOfLanes upper w = hexval upper (lane w 2) ++ hexval upper (lane w 3) ++ hexval upper (lane w 0)
      ++ hexval upper (lane w 1) :=
  append_byteOfHex _ _ _ _

/-- A half's four nibbles behind whatever stands above it. -/
theorem append_halfOfLanes {n : Nat} (x : BitVec n) (upper : Bool) (w : Word) :
    x ++ halfOfLanes upper w = x ++ hexval upper (lane w 2) ++ hexval upper (lane w 3) ++ hexval upper (lane w 0)
      ++ hexval upper (lane w 1) := by
  calc
    _ = x ++ byteOfHex upper (lane w 2) (lane w 3) ++ byteOfHex upper (lane w 0) (lane w 1) := by
      rw [BitVec.append_assoc]
      rfl
    _ = x ++ byteOfHex upper (lane w 2) (lane w 3) ++ hexval upper (lane w 0) ++ hexval upper (lane w 1) :=
      append_byteOfHex _ _ _ _
    _ = _ := by rw [append_byteOfHex x]

/-- Settles O26: the value by its nibbles and the mask by its bits, at each width. -/
theorem hexDecodersGiveTheValue : Obligations.HexDecodersGiveTheValue := by
  refine ⟨resultCommand_of_accept rfl fun s => ?_, resultCommand_of_accept rfl fun s => ?_,
    resultCommand_of_accept rfl fun s => ?_⟩
  · rw [exec_hexdecB, invalidMask_cons (invalidMask_singleton _ _)]
    rfl
  · rw [exec_hexdecH, halfOfLanes_eq_append,
      invalidMask_cons (invalidMask_cons (invalidMask_cons (invalidMask_singleton _ _)))]
  · rw [exec_hexdecW, append_halfOfLanes, halfOfLanes_eq_append,
      invalidMask_cons (invalidMask_cons (invalidMask_cons (invalidMask_cons
        (invalidMask_cons (invalidMask_cons (invalidMask_cons (invalidMask_singleton _ _)))))))]

/-! ### Round trips (R119) -/

/-- Settles O27: what an encoder gives is all digits, and the decoder takes each back to its nibble. -/
theorem hexValuesSurviveEncodeThenDecode : Obligations.HexValuesSurviveEncodeThenDecode := by
  refine fun s => ⟨⟨_, _, exec_hexencB s, exec_hexdecB _, ?_, ?_⟩, ⟨_, _, exec_hexencH s, exec_hexdecH _, ?_, ?_⟩,
    ⟨_, _, exec_hexencW s, exec_hexdecW _, ?_, ?_⟩⟩
  all_goals simp only [accept_resa, accept_resb]
  · rw [byteOfHex_lane_hexOfByte]
  · exact invalidMask_eq_zero (by simp [hexvalid_lane_hexOfByte])
  · rw [halfOfLanes_hexOfHalf]
  · exact invalidMask_eq_zero (by simp [hexvalid_lane_hexOfHalf])
  · rw [halfOfLanes_hexOfHalf, halfOfLanes_hexOfHalf]
    exact BitVec.extractLsb'_append_extractLsb' (w := 16) (len := 16)
  · exact invalidMask_eq_zero (by simp [hexvalid_lane_hexOfHalf])

/-- Characters come back as they were exactly where each was a lower-case digit. -/
theorem lane_eq_iff_isLowerHex {upper : Bool} {v w : Word} {n : Nat}
    (h : ∀ k < n, lane v k = hexchar (hexval upper (lane w k))) :
    (∀ k < n, lane v k = lane w k) ↔ ∀ k < n, isLowerHex (lane w k) :=
  forall₂_congr fun k hk => by rw [h k hk, hexchar_hexval_eq_iff]

/-- A value zero-extended into a register is that register's low part. -/
theorem extractLsb'_setWidth_self {n : Nat} (x : BitVec n) (h : n ≤ 32) : (x.setWidth 32).extractLsb' 0 n = x := by
  rw [BitVec.extractLsb'_setWidth_of_le (by omega), BitVec.extractLsb'_eq_self]

/-- Settles O28: the encoder gives the lower-case digit of each value that the decoder read. -/
theorem hexCharactersComeBackLowercase : Obligations.HexCharactersComeBackLowercase := by
  intro s
  refine ⟨⟨_, _, exec_hexdecB s, exec_hexencB _, ?byte⟩, ⟨_, _, exec_hexdecH s, exec_hexencH _, ?half⟩,
    ⟨_, _, exec_hexdecW s, exec_hexencW _, ?word⟩⟩
  all_goals simp only [accept_resa, accept_resb, true_and]
  case byte =>
    rw [extractLsb'_setWidth_self _ (by decide)]
    have hchars := fun k hk => lane_hexOfByte_byteOfHex s.cfg.hexUpper s.opa (k := k) hk
    exact ⟨hchars, extractLsb'_wordOfChars_hexOfByte _, lane_eq_iff_isLowerHex hchars⟩
  case half =>
    rw [extractLsb'_setWidth_self _ (by decide)]
    have hchars := fun k hk => lane_hexOfHalf_halfOfLanes s.cfg.hexUpper s.opa (k := k) hk
    exact ⟨hchars, eq_iff_lane_eq.trans (lane_eq_iff_isLowerHex hchars)⟩
  case word =>
    rw [BitVec.extractLsb'_append_eq_right, BitVec.extractLsb'_append_eq_left]
    have hlow := fun k hk => lane_hexOfHalf_halfOfLanes s.cfg.hexUpper s.opa (k := k) hk
    have hhigh := fun k hk => lane_hexOfHalf_halfOfLanes s.cfg.hexUpper s.opb (k := k) hk
    refine ⟨fun k hk => ⟨hlow k hk, hhigh k hk⟩, ?_⟩
    rw [eq_iff_lane_eq, eq_iff_lane_eq, lane_eq_iff_isLowerHex hlow, lane_eq_iff_isLowerHex hhigh,
      forall₂_and]

end Sys2Proof.Machine
end

section
/-! The field-name codec: its letter tables, the packing and unpacking of a name and that they invert each other, and what
each of its four commands does (41_fieldname.md R140-R149). -/

namespace Sys2Proof.Machine

/-! ### The letter tables as numbers (R140, R141, R148) -/

/-- The ranges of bytes as ranges of numbers. -/
theorem letterCode_eq (c : Byte) :
    letterCode c =
      if 0x61 ≤ c.toNat ∧ c.toNat ≤ 0x7A then (c - 0x60).setWidth 5
      else if 0x41 ≤ c.toNat ∧ c.toNat ≤ 0x5A then (c - 0x40).setWidth 5
      else if 0x30 ≤ c.toNat ∧ c.toNat ≤ 0x34 then (c - 0x30 + 27).setWidth 5
      else 0 := rfl

theorem toNat_letterCode (c : Byte) :
    (letterCode c).toNat =
      if 0x61 ≤ c.toNat ∧ c.toNat ≤ 0x7A then c.toNat - 0x60
      else if 0x41 ≤ c.toNat ∧ c.toNat ≤ 0x5A then c.toNat - 0x40
      else if 0x30 ≤ c.toNat ∧ c.toNat ≤ 0x34 then c.toNat - 0x30 + 27
      else 0 := by
  rw [letterCode_eq]
  split_ifs
  case neg => rfl
  all_goals bv_omega

theorem toNat_codeLetter (k : BitVec 5) :
    (codeLetter k).toNat =
      if k.toNat = 0 then 0x00
      else if k.toNat ≤ 26 then 0x60 + k.toNat
      else 0x30 + (k.toNat - 27) := by
  have hzero : k = 0 ↔ k.toNat = 0 := BitVec.toNat_inj.symm
  simp only [codeLetter, hzero]
  split_ifs
  · rfl
  all_goals bv_omega

/-- The slot of a character, its ranges as ranges of numbers. -/
theorem slotOf_eq (c : Byte) :
    slotOf c =
      if 0x61 ≤ c.toNat ∧ c.toNat ≤ 0x7A then c
      else if 0x41 ≤ c.toNat ∧ c.toNat ≤ 0x5A then c + 0x20
      else if 0x30 ≤ c.toNat ∧ c.toNat ≤ 0x34 then c
      else 0x00 := rfl

/-- Settles O29: both tables as numbers, range by range. -/
theorem letterTablesFollowTheRanges : Obligations.LetterTablesFollowTheRanges := by
  refine ⟨fun c => ?_, fun k => ?_⟩
  · rw [toNat_letterCode]
    split_ifs <;> rfl
  · rw [toNat_codeLetter]
    split_ifs <;> rfl

/-! ### The tables invert each other (R148, R149) -/

/-- The letter of a character's code is the character in lower case, and no character where it has no code. -/
theorem codeLetter_letterCode (c : Byte) : codeLetter (letterCode c) = slotOf c := by
  have hcode := toNat_letterCode c
  have hletter := toNat_codeLetter (letterCode c)
  rw [slotOf_eq]
  split_ifs at hcode hletter ⊢ <;> bv_omega

/-- Every code is the code of its letter; the sentinel 0 is the code of no character. -/
theorem letterCode_codeLetter (k : BitVec 5) : letterCode (codeLetter k) = k := by
  have hletter := toNat_codeLetter k
  have hcode := toNat_letterCode (codeLetter k)
  split_ifs at hletter hcode <;> bv_omega

/-! ### Packing and unpacking (R142, R143, R149) -/

/-- A packed name is its three codes, zero-extended. -/
theorem packName_eq_setWidth (c0 c1 c2 : Byte) :
    packName c0 c1 c2 = (letterCode c0 ++ letterCode c1 ++ letterCode c2).setWidth 16 := by
  rw [packName, BitVec.append_assoc, BitVec.append_assoc, BitVec.append_assoc, BitVec.setWidth_eq_append (by decide)]
  rfl

/-- The three codes of a packed name, in its three fields. -/
theorem codes_packName (c0 c1 c2 : Byte) :
    (packName c0 c1 c2).extractLsb' 10 5 = letterCode c0 ∧ (packName c0 c1 c2).extractLsb' 5 5 = letterCode c1
      ∧ (packName c0 c1 c2).extractLsb' 0 5 = letterCode c2 := by
  unfold packName
  refine ⟨?_, ?_, BitVec.extractLsb'_append_eq_right⟩
  · rw [BitVec.extractLsb'_append_eq_of_le (by decide), BitVec.extractLsb'_append_eq_of_le (by decide)]
    exact BitVec.extractLsb'_append_eq_right
  · rw [BitVec.extractLsb'_append_eq_of_le (by decide)]
    exact BitVec.extractLsb'_append_eq_right

/-- What unpacking a packed name gives: its characters in lower case, and the length that these slots have. -/
theorem unpackName_packName (c0 c1 c2 : Byte) :
    unpackName (packName c0 c1 c2) =
      ⟨slotOf c0, slotOf c1, slotOf c2, slotsLen (slotOf c0) (slotOf c1) (slotOf c2)⟩ := by
  obtain ⟨h0, h1, h2⟩ := codes_packName c0 c1 c2
  simp only [unpackName, h0, h1, h2, codeLetter_letterCode]

theorem slotsLen_eq_three {s0 s1 s2 : Byte} (h0 : s0 ≠ 0x00) (h1 : s1 ≠ 0x00) (h2 : s2 ≠ 0x00) :
    slotsLen s0 s1 s2 = 3 := by
  rw [slotsLen, if_neg h0, if_neg h1, if_neg h2]

/-- What packing an unpacked value gives: the fifteen bits of its three fields. -/
theorem packName_unpackName (n : Half) :
    packName (unpackName n).s0 (unpackName n).s1 (unpackName n).s2 = (n.extractLsb' 0 15).setWidth 16 := by
  simp only [packName_eq_setWidth, unpackName, letterCode_codeLetter]
  rw [BitVec.extractLsb'_append_extractLsb'_eq_extractLsb' (by decide),
    BitVec.extractLsb'_append_extractLsb'_eq_extractLsb' (by decide)]

theorem and_0x7FFF_eq (n : Half) : n &&& 0x7FFF = (n.extractLsb' 0 15).setWidth 16 := by
  rw [← BitVec.setWidth_eq_extractLsb' (by decide), BitVec.setWidth_eq_append (by decide)]
  exact BitVec.and_setWidth_allOnes 1 15 n

/-- Settles O34: the fields hold what was packed, and the letter tables invert each other. -/
theorem namesSurvivePackAndUnpack : Obligations.NamesSurvivePackAndUnpack := by
  refine ⟨fun c0 c1 c2 => ?_, fun n => ?_⟩
  · rw [unpackName_packName]
    exact ⟨rfl, rfl, rfl, slotsLen_eq_three⟩
  · exact (packName_unpackName n).trans (and_0x7FFF_eq n).symm

/-! ### What each command does -/

section
variable (s : State)

theorem exec_letenc : exec .letenc s = .next (s.accept ((letterCode (s.opa.extractLsb' 0 8)).setWidth 32) 0) := rfl

theorem exec_letdec : exec .letdec s = .next (s.accept ((codeLetter (s.opa.extractLsb' 0 5)).setWidth 32) 0) := rfl

theorem exec_namepack : exec .namepack s =
    .next (s.accept ((packName (lane s.opb 0) (lane s.opb 1) (lane s.opb 2)).setWidth 32) 0) := rfl

theorem exec_nameunpk : exec .nameunpk s =
    let u := unpackName (s.opa.extractLsb' 0 16)
    .next (s.accept (lanes u.s0 u.s1 u.s2 u.len) 0) := rfl

end

/-- Settles O30: LETENC is the code table. -/
theorem letencResult : Obligations.LetencResult := resultCommand_of_accept rfl exec_letenc

/-- Settles O31: LETDEC is the letter table. -/
theorem letdecResult : Obligations.LetdecResult := resultCommand_of_accept rfl exec_letdec

/-- Settles O32: bit 15 of a packed name is 0, as are the bits above it. -/
theorem namepackResult : Obligations.NamepackResult := by
  refine resultCommand_of_accept rfl fun s => ?_
  rw [exec_namepack, packName_eq_setWidth, BitVec.setWidth_setWidth (by decide)]

/-- Settles O33: the fields of OPA's low half are fields of OPA. -/
theorem nameunpkResult : Obligations.NameunpkResult := by
  refine resultCommand_of_accept rfl fun s => ?_
  simp only [exec_nameunpk, unpackName, extractLsb'_extractLsb', Nat.reduceLeDiff]
  rfl

end Sys2Proof.Machine
end

section
/-! The message commands that build a message: scaling, the add procedure with its refusals, and clearing
(42_message.md R163-R169, R176). -/

namespace Sys2Proof.Machine

/-! ### Scaling an integer (R164) -/

theorem u16_of_fits {n : Int} (h : -32768 ≤ n ∧ n ≤ 32767) : u16 n = some (BitVec.ofInt 16 n) := if_pos h

theorem u16_of_not_fits {n : Int} (h : ¬ (-32768 ≤ n ∧ n ≤ 32767)) : u16 n = none := if_neg h

theorem scale10i_of_fits {x : Int} (h : -3276 ≤ x ∧ x ≤ 3276) : scale10i x = some (BitVec.ofInt 16 (10 * x)) :=
  u16_of_fits (by omega)

theorem scale10i_of_not_fits {x : Int} (h : ¬ (-3276 ≤ x ∧ x ≤ 3276)) : scale10i x = none :=
  u16_of_not_fits (by omega)

/-- What the scaled pattern stands for: no bit is lost where ten times the integer fits. -/
theorem toInt_of_scale10i_eq_some {x : Int} {v : Half} (h : scale10i x = some v) : v.toInt = 10 * x := by
  by_cases hx : -3276 ≤ x ∧ x ≤ 3276
  · rw [scale10i_of_fits hx, Option.some.injEq] at h
    rw [← h]
    exact BitVec.toInt_ofInt_eq_self (by decide) (by omega) (by omega)
  · simp [scale10i_of_not_fits hx] at h

/-- Settles O36: ten times the integer fits 16 bits exactly in the stated range. -/
theorem scaledIntegerIsTenTimesOrOutOfRange : Obligations.ScaledIntegerIsTenTimesOrOutOfRange := by
  intro x
  split
  · next h => exact ⟨_, scale10i_of_fits h, toInt_of_scale10i_eq_some (scale10i_of_fits h)⟩
  · next h => exact scale10i_of_not_fits h

/-! ### The add procedure (R163) -/

theorem toNat_committedBytes (w : Word) : (committedBytes w).toNat = w.toNat / 2 := by
  rw [committedBytes, BitVec.toNat_ofNat]
  omega

theorem length_blockChars (n v : Half) : (blockChars n v).length = 8 := rfl

section
variable {s : State}

theorem toNat_mlen_add_eight (hroom : s.mlen.toNat + 8 ≤ 24) : (s.mlen + 8).toNat = s.mlen.toNat + 8 := by
  rw [BitVec.toNat_add_of_lt (by simp; omega)]
  rfl

/-- A refused add, whatever its code. -/
theorem addRefusedWith_refuseAdd (s : State) (e : ErrCode) : addRefusedWith e.code s (.next (s.refuseAdd e)) :=
  ⟨_, rfl, errWritten_setErr e s.status, by constructor <;> rfl, by constructor <;> rfl,
    toNat_committedBytes s.mlen, rfl, rfl, rfl, fun _ => rfl⟩

/-- The capacity guard comes first, whatever the value. -/
theorem addField_of_full (h : s.mlen.toNat + 8 > 24) (val : Option Half) : addField s val = s.refuseAdd .capacity :=
  if_pos h

theorem addField_none (hroom : s.mlen.toNat + 8 ≤ 24) : addField s none = s.refuseAdd .range :=
  if_neg (Nat.not_lt.mpr hroom)

theorem addField_some (hroom : s.mlen.toNat + 8 ≤ 24) (v : Half) :
    addField s (some v) =
      (s.appendBlock (blockChars (packName (lane s.opb 0) (lane s.opb 1) (lane s.opb 2)) v)).accept
        (committedBytes (s.mlen + 8)) 0 := by
  rw [← fieldBlock_eq_blockChars]
  exact if_neg (Nat.not_lt.mpr hroom)

theorem addRefusedWith_capacity (h : s.mlen.toNat + 8 > 24) (val : Option Half) :
    addRefusedWith 2 s (.next (addField s val)) := by
  rw [addField_of_full h]
  exact addRefusedWith_refuseAdd s .capacity

theorem addRefusedWith_range (hroom : s.mlen.toNat + 8 ≤ 24) : addRefusedWith 3 s (.next (addField s none)) := by
  rw [addField_none hroom]
  exact addRefusedWith_refuseAdd s .range

/-- An add with room and a value in range appends its block and reports the bytes then committed. -/
theorem addAppends_addField (hroom : s.mlen.toNat + 8 ≤ 24) (v : Half) :
    addAppends v s (.next (addField s (some v))) := by
  rw [addField_some hroom]
  refine ⟨_, rfl, fun j hj => ?chars, fun a ha => ?outside, toNat_mlen_add_eight hroom, ?committed, rfl,
    errWritten_setErr .ok s.status, by constructor <;> rfl, by constructor <;> rfl, rfl⟩
  case chars =>
    simp only [accept_mem, appendBlock_mem, Buf.addr, Buf.base]
    rw [read_writeBytes, length_blockChars, if_pos (by omega), Nat.add_sub_cancel_left]
  case outside =>
    simp only [accept_mem, appendBlock_mem, Buf.addr, Buf.base]
    exact read_writeBytes_other _ _ _ _ ha
  case committed =>
    rw [accept_resa, toNat_committedBytes, toNat_mlen_add_eight hroom]

end

/-! ### The three add commands (R167-R169) -/

section
variable (s : State)

theorem exec_msgaddi : exec .msgaddi s = .next (addField s (scale10i s.opa.toInt)) := rfl

theorem exec_msgaddf : exec .msgaddf s = .next (addField s (scale10f s.cfg.scale10f s.opa)) := rfl

theorem exec_msgadds : exec .msgadds s =
    .next (addField s (some (packName (lane s.opa 0) (lane s.opa 1) (lane s.opa 2)))) := rfl

end

/-- Settles O37: the add procedure with ten times the integer. -/
theorem msgaddiAppendsTenTimesTheInteger : Obligations.MsgaddiAppendsTenTimesTheInteger := by
  refine ⟨decode_encode .msgaddi, fun s => ?_⟩
  rw [exec_msgaddi]
  refine ⟨fun hfull => addRefusedWith_capacity hfull _, fun hroom hout => ?range, fun hroom hlo hhi => ?appended⟩
  case range =>
    rw [scale10i_of_not_fits (by omega)]
    exact addRefusedWith_range hroom
  case appended =>
    rw [scale10i_of_fits ⟨hlo, hhi⟩]
    exact addAppends_addField hroom _

/-- Exponent 255 is a NaN or an infinity, and out of range (R165). -/
theorem scale10fReference_of_not_finite {f : Word} (h : (f.extractLsb' 23 8).toNat = 255) :
    scale10fReference f = none := if_pos h

/-- Settles O38: the add procedure with the scaled float, and the reference definition evaluated at R168's values. -/
theorem msgaddfAppendsTheScaledFloat : Obligations.MsgaddfAppendsTheScaledFloat := by
  refine ⟨decode_encode .msgaddf, fun s => ?add, ?reference⟩
  case add =>
    rw [exec_msgaddf]
    refine ⟨fun hfull => addRefusedWith_capacity hfull _, fun hroom hout => ?_, fun v hroom hval => ?_⟩
    · rw [hout]
      exact addRefusedWith_range hroom
    · rw [hval]
      exact addAppends_addField hroom v
  case reference =>
    refine ⟨?_, ?_, ?_, ?_, ?_, ?_, ?_, ?_, ?_, fun f => scale10fReference_of_not_finite⟩
    all_goals decide

/-- Settles O39: the add procedure with the packed string, which is never out of range. -/
theorem msgaddsAppendsThePackedString : Obligations.MsgaddsAppendsThePackedString := by
  refine ⟨decode_encode .msgadds, fun s => ?_⟩
  rw [exec_msgadds]
  exact ⟨fun hfull => addRefusedWith_capacity hfull _, fun hroom => addAppends_addField hroom _⟩

/-! ### Clearing the message (R166) -/

theorem exec_msgclr (s : State) :
    exec .msgclr s = .next (State.accept { s with mem := Memory.clear s.mem 0x100 24, mlen := 0 } 0 0) := rfl

/-- Settles O35: MSG is cleared whole, and no other byte is. -/
theorem msgclrEmptiesTheMessage : Obligations.MsgclrEmptiesTheMessage := by
  refine ⟨decode_encode .msgclr, fun s => ⟨_, exec_msgclr s, fun j hj => ?zero, fun a ha => ?outside, rfl, rfl, rfl,
    errWritten_setErr .ok s.status, by constructor <;> rfl, by constructor <;> rfl, rfl⟩⟩
  case zero =>
    rw [accept_mem, read_clear, if_pos (by omega)]
    rfl
  case outside =>
    rw [accept_mem, read_clear, if_neg (by omega)]

/-! ### Several adds in order (R175, R176) -/

/-- The eight characters that an accepted add appends. -/
def AddStep.chars (cfg : Config) (a : AddStep) : List Byte :=
  blockChars (packName (lane a.opb 0) (lane a.opb 1) (lane a.opb 2)) ((a.value cfg).getD 0)

/-- An add command is the add procedure on its own operands and value. -/
theorem AddStep.run_eq_addField {a : AddStep} (h : a.instr = .msgaddi ∨ a.instr = .msgaddf ∨ a.instr = .msgadds)
    (s : State) : a.run s = .next (addField { s with opa := a.opa, opb := a.opb } (a.value s.cfg)) := by
  obtain ⟨i, x, y⟩ := a
  rcases h with rfl | rfl | rfl <;> rfl

/-- Only the add commands have a value. -/
theorem AddStep.isAdd_of_value {a : AddStep} {cfg : Config} (h : (a.value cfg).isSome) :
    a.instr = .msgaddi ∨ a.instr = .msgaddf ∨ a.instr = .msgadds := by
  unfold AddStep.value at h
  split at h
  · next hi => exact .inl hi
  · next hi => exact .inr (.inl hi)
  · next hi => exact .inr (.inr hi)
  · simp at h

/-- What accepted adds make of a state: their blocks one after the other behind the message, and MLEN past them. -/
structure AddsDone (as : List AddStep) (s t : State) : Prop where
  cfg : t.cfg = s.cfg
  mlen : t.mlen.toNat = s.mlen.toNat + 8 * as.length
  mem : t.mem = Memory.writeBytes s.mem (0x100 + s.mlen.toNat) (as.flatMap (AddStep.chars s.cfg))

theorem writeBytes_append (m : Memory) (a : Nat) (bs cs : List Byte) :
    Memory.writeBytes m a (bs ++ cs) = Memory.writeBytes (Memory.writeBytes m a bs) (a + bs.length) cs := by
  induction bs generalizing m a with
  | nil => rfl
  | cons b bs ih => simp [Memory.writeBytes, ih, Nat.add_assoc, Nat.add_comm 1]

theorem AddStep.run_of_value {a : AddStep} {s : State} (hval : (a.value s.cfg).isSome)
    (hroom : s.mlen.toNat + 8 ≤ 24) : ∃ t, a.run s = .next t ∧ AddsDone [a] s t := by
  refine ⟨_, a.run_eq_addField (AddStep.isAdd_of_value hval) s, ?_⟩
  obtain ⟨v, hv⟩ := Option.isSome_iff_exists.mp hval
  rw [hv, addField_some (by exact hroom)]
  exact ⟨rfl, toNat_mlen_add_eight hroom, by simp [AddStep.chars, hv, Buf.addr, Buf.base]⟩

theorem AddsDone.cons {a : AddStep} {as : List AddStep} {s t u : State} (h : AddsDone [a] s t) (k : AddsDone as t u) :
    AddsDone (a :: as) s u where
  cfg := k.cfg.trans h.cfg
  mlen := by rw [k.mlen, h.mlen, List.length_singleton, List.length_cons]; omega
  mem := by
    have hblock : [a].flatMap (AddStep.chars s.cfg) = a.chars s.cfg := List.flatMap_singleton ..
    rw [k.mem, h.mem, h.mlen, h.cfg, hblock, List.flatMap_cons, writeBytes_append, Nat.add_assoc]
    rfl

/-- As many adds as there is room for, all with a value, are all accepted. -/
theorem runAdds_of_values (as : List AddStep) (s : State) (hvals : ∀ a ∈ as, (a.value s.cfg).isSome)
    (hroom : s.mlen.toNat + 8 * as.length ≤ 24) : ∃ t, runAdds s as = .next t ∧ AddsDone as s t := by
  induction as generalizing s with
  | nil => exact ⟨s, rfl, rfl, rfl, rfl⟩
  | cons a as ih =>
    rw [List.length_cons] at hroom
    obtain ⟨t, hrun, hdone⟩ := AddStep.run_of_value (hvals a List.mem_cons_self) (by omega)
    have hmlen : t.mlen.toNat = s.mlen.toNat + 8 := hdone.mlen
    have hvals' : ∀ b ∈ as, (b.value t.cfg).isSome := fun b hb => by
      rw [hdone.cfg]
      exact hvals b (List.mem_cons_of_mem a hb)
    obtain ⟨u, hruns, hrest⟩ := ih t hvals' (by omega)
    exact ⟨u, by rw [runAdds, hrun]; exact hruns, hdone.cons hrest⟩

/-- Settles O41: three blocks fill MSG, so the capacity guard turns the fourth add away before its value is looked at. -/
theorem fourthFieldIsRefused : Obligations.FourthFieldIsRefused := by
  intro s a b c d hempty ha hb hc hd
  obtain ⟨t, hrun, hdone⟩ := runAdds_of_values [a, b, c] s (by simp [ha, hb, hc]) (by simp [hempty])
  have hfull : t.mlen = 24 := BitVec.eq_of_toNat_eq (by rw [hdone.mlen, hempty]; rfl)
  refine ⟨t, _, hrun, hfull, d.run_eq_addField hd t, ?_⟩
  rw [addField_of_full (by rw [hfull]; decide)]
  exact ⟨statusErr_setErr .capacity t.status, hfull, by rw [refuseAdd_resa, hfull]; rfl, fun _ => rfl⟩

end Sys2Proof.Machine
end

section
/-! The reference SCALE10F against an independent account of its rounding: in every interval that no binary32 number
divides, the nearer end is the rounded value (42_message.md R165, logs 5 and 17). -/

namespace Sys2Proof.Machine

/-! ### The binary32 grid -/

theorem eq_or_lt_pow_24 {q : Nat} (hq : q ≤ 2 ^ 24) (k : Nat) : q * 2 ^ k = 2 ^ 23 * 2 ^ (k + 1) ∨ q < 2 ^ 24 := by
  rcases hq.lt_or_eq with h | rfl
  · exact .inr h
  · exact .inl (by rw [pow_succ 2 k]; omega)

/-- A significand that rounding carries to 2^24 is 2^23 at the next exponent. -/
theorem binary32Grid_mul {q : Nat} (hq : q ≤ 2 ^ 24) (k : Nat) : binary32Grid (q * 2 ^ k) := by
  rcases eq_or_lt_pow_24 hq k with h | h
  · exact ⟨2 ^ 23, k + 1, by decide, h⟩
  · exact ⟨q, k, h, rfl⟩

theorem evenSignificand_mul {q : Nat} (hlo : 2 ^ 23 ≤ q) (hq : q ≤ 2 ^ 24) (heven : q % 2 = 0) (k : Nat) :
    evenSignificand (q * 2 ^ k) := by
  rcases eq_or_lt_pow_24 hq k with h | h
  · exact ⟨2 ^ 23, k + 1, by decide, .inl le_rfl, h, by decide⟩
  · exact ⟨q, k, h, .inl hlo, rfl, heven⟩

/-- No binary32 number lies strictly between two neighbouring ones of full significand. -/
theorem binary32Grid_gap {q k g : Nat} (hq : 2 ^ 23 ≤ q) (hg : binary32Grid g) :
    g ≤ q * 2 ^ k ∨ (q + 1) * 2 ^ k ≤ g := by
  obtain ⟨a, j, ha, rfl⟩ := hg
  rcases Nat.lt_or_ge j k with hj | hj
  · left
    calc a * 2 ^ j ≤ 2 ^ 24 * 2 ^ (k - 1) := Nat.mul_le_mul ha.le (Nat.pow_le_pow_right (by decide) (by omega))
      _ = 2 ^ 23 * 2 ^ k := by rw [← Nat.pow_add, ← Nat.pow_add]; congr 1; omega
      _ ≤ q * 2 ^ k := Nat.mul_le_mul_right _ hq
  · have hmul : a * 2 ^ j = a * 2 ^ (j - k) * 2 ^ k := by rw [Nat.mul_assoc, ← Nat.pow_add, Nat.sub_add_cancel hj]
    rw [hmul]
    rcases Nat.lt_or_ge q (a * 2 ^ (j - k)) with h | h
    · exact .inr (Nat.mul_le_mul_right _ h)
    · exact .inl (Nat.mul_le_mul_right _ h)

/-! ### Rounding to the grid -/

theorem roundsToNearestEven_self {x : Nat} (h : binary32Grid x) : roundsToNearestEven x x :=
  ⟨h, fun q _ => by simp [Nat.dist_self],
    fun q _ hne heq => absurd (Nat.eq_of_dist_eq_zero (heq.trans (Nat.dist_self x))) hne⟩

/-- An end of a gap is the rounded value of a number that is nearer to it than half the gap, or exactly half where that
end is the even one. -/
theorem roundsToNearestEven_of_near {lo hi x p : Nat} (hgap : ∀ g, binary32Grid g → g ≤ lo ∨ hi ≤ g)
    (hgrid : binary32Grid p) (hend : p = lo ∨ p = hi) (hlo : lo ≤ x) (hhi : x ≤ hi)
    (hnear : 2 * Nat.dist p x < hi - lo ∨ 2 * Nat.dist p x = hi - lo ∧ evenSignificand p) :
    roundsToNearestEven x p := by
  simp only [Nat.dist] at hnear
  refine ⟨hgrid, fun q hq => ?nearest, fun q hq hne heq => ?tie⟩
  case nearest =>
    have := hgap q hq
    simp only [Nat.dist]
    omega
  case tie =>
    have := hgap q hq
    simp only [Nat.dist] at heq
    rcases hnear with h | ⟨-, heven⟩
    · omega
    · exact heven

/-! ### `roundShift` and `scaledMagnitude` -/

/-- `roundShift` rounds down below the midpoint, and at it where the quotient is even; otherwise it rounds up. -/
theorem roundShift_cases (p sh : Nat) :
    (roundShift p sh = p / 2 ^ sh
      ∧ (2 * (p % 2 ^ sh) < 2 ^ sh ∨ 2 * (p % 2 ^ sh) = 2 ^ sh ∧ p / 2 ^ sh % 2 = 0))
    ∨ (roundShift p sh = p / 2 ^ sh + 1
      ∧ (2 ^ sh < 2 * (p % 2 ^ sh) ∨ 2 * (p % 2 ^ sh) = 2 ^ sh ∧ p / 2 ^ sh % 2 = 1)) := by
  unfold roundShift
  simp only
  split
  · next h => exact .inl ⟨rfl, h⟩
  · next h => exact .inr ⟨rfl, by omega⟩

@[simp] theorem roundShift_zero (p : Nat) : roundShift p 0 = p := by simp [roundShift, Nat.mod_one]

/-- A product of a 24-bit significand needs no shift, or one that leaves exactly 24 bits. -/
theorem excessBits_cases {p : Nat} (h : p < 2 ^ 28) :
    (p < 2 ^ 24 ∧ excessBits p = 0) ∨ (2 ^ 23 ≤ p / 2 ^ excessBits p ∧ p / 2 ^ excessBits p < 2 ^ 24) := by
  unfold excessBits
  split_ifs <;> omega

/-- Where the quotient has exactly 24 bits, `roundShift` rounds to the grid, at every scale. -/
theorem roundsToNearestEven_roundShift {p sh : Nat} (k : Nat) (hlo : 2 ^ 23 ≤ p / 2 ^ sh) (hhi : p / 2 ^ sh < 2 ^ 24) :
    roundsToNearestEven (p * 2 ^ k) (roundShift p sh * 2 ^ (sh + k)) := by
  have hgap := fun g => binary32Grid_gap (k := sh + k) (g := g) hlo
  have hscale : 0 < 2 ^ k := Nat.two_pow_pos k
  have hwidth : 2 ^ (sh + k) = 2 ^ sh * 2 ^ k := Nat.pow_add 2 sh k
  have hhigh : (p / 2 ^ sh + 1) * 2 ^ (sh + k) = p / 2 ^ sh * 2 ^ (sh + k) + 2 ^ (sh + k) := Nat.succ_mul ..
  have hsplit : p * 2 ^ k = p / 2 ^ sh * 2 ^ (sh + k) + p % 2 ^ sh * 2 ^ k := by
    rw [hwidth, ← Nat.mul_assoc, ← Nat.add_mul, Nat.div_add_mod']
  have hrem : p % 2 ^ sh * 2 ^ k < 2 ^ sh * 2 ^ k :=
    Nat.mul_lt_mul_of_pos_right (Nat.mod_lt _ (Nat.two_pow_pos sh)) hscale
  have hdouble : 2 * (p % 2 ^ sh) * 2 ^ k = 2 * (p % 2 ^ sh * 2 ^ k) := Nat.mul_assoc ..
  rcases roundShift_cases p sh with ⟨hround, hnear⟩ | ⟨hround, hnear⟩ <;> rw [hround]
  · refine roundsToNearestEven_of_near hgap (binary32Grid_mul hhi.le _) (.inl rfl) (by omega) (by omega) ?_
    rw [Nat.dist_eq_sub_of_le (by omega)]
    rcases hnear with h | ⟨h, heven⟩
    · have := Nat.mul_lt_mul_of_pos_right h hscale
      exact .inl (by omega)
    · rw [h] at hdouble
      exact .inr ⟨by omega, evenSignificand_mul hlo hhi.le heven _⟩
  · refine roundsToNearestEven_of_near hgap (binary32Grid_mul hhi _) (.inr rfl) (by omega) (by omega) ?_
    rw [Nat.dist_eq_sub_of_le_right (by omega)]
    rcases hnear with h | ⟨h, hodd⟩
    · have := Nat.mul_lt_mul_of_pos_right h hscale
      exact .inl (by omega)
    · rw [h] at hdouble
      exact .inr ⟨by omega, evenSignificand_mul (by omega) hhi (by omega) _⟩

/-- The model's magnitude is the truncation of the product rounded in units of 2^-149. -/
theorem exists_rounded_scaledMagnitude {m e : Nat} (hm : m < 2 ^ 24) (he : 1 ≤ e) :
    ∃ p, roundsToNearestEven (10 * m * 2 ^ (e - 1)) p ∧ scaledMagnitude m e = p / 2 ^ 149 := by
  refine ⟨roundShift (10 * m) (excessBits (10 * m)) * 2 ^ (excessBits (10 * m) + (e - 1)), ?rounds, ?truncates⟩
  case rounds =>
    rcases excessBits_cases (p := 10 * m) (by omega) with ⟨hsmall, hsh⟩ | ⟨hlo, hhi⟩
    · rw [hsh, roundShift_zero, Nat.zero_add]
      exact roundsToNearestEven_self (binary32Grid_mul hsmall.le _)
    · exact roundsToNearestEven_roundShift _ hlo hhi
  case truncates =>
    have hexp : e + excessBits (10 * m) = excessBits (10 * m) + (e - 1) + 1 := by omega
    simp only [scaledMagnitude]
    rw [hexp, Nat.pow_succ, Nat.pow_succ 2 149, ← Nat.mul_assoc, Nat.mul_div_mul_right _ _ (by decide)]

/-! ### The reference itself -/

/-- The reference on a finite value, with the hidden bit of its significand (R165, K2). -/
theorem scale10fReference_of_finite {f : Word} (h : (f.extractLsb' 23 8).toNat ≠ 255) :
    scale10fReference f =
      let e := (f.extractLsb' 23 8).toNat
      let frac := (f.extractLsb' 0 23).toNat
      let mag := scaledMagnitude (if e = 0 then frac else frac + 2 ^ 23) (max e 1)
      u16 (if f.getLsbD 31 then -(mag : Int) else (mag : Int)) := if_neg h

/-- Settles O40: the product is rounded and truncated as the magnitude; sign and fit are those of `u16`. -/
theorem floatReferenceRoundsThenTruncates : Obligations.FloatReferenceRoundsThenTruncates := by
  intro f
  have hfrac : (f.extractLsb' 0 23).toNat < 2 ^ 23 := BitVec.isLt _
  simp only
  split
  · next h => exact scale10fReference_of_not_finite h
  · next h =>
    rw [scale10fReference_of_finite h]
    simp only
    generalize (f.extractLsb' 23 8).toNat = e
    generalize (f.extractLsb' 0 23).toNat = frac at *
    have hm : (if e = 0 then frac else frac + 2 ^ 23) < 2 ^ 24 := by split <;> omega
    obtain ⟨p, hrounds, hmag⟩ := exists_rounded_scaledMagnitude hm (Nat.le_max_right e 1)
    refine ⟨p, ?_, by rw [hmag]; rfl⟩
    convert hrounds using 1
    split
    · next hzero => simp [hzero]
    · next hpos => rw [Nat.max_eq_left (by omega), Nat.mul_assoc]

end Sys2Proof.Machine
end

section
/-! MSGDEC, and that it gives back what the add commands put into a message (42_message.md R171, R172, R175). -/

namespace Sys2Proof.Machine

/-! ### Lists of equal blocks -/

/-- Entry `i` of block `j`, where every block has `n` entries. -/
theorem getElem?_flatMap_of_length {α β : Type} {f : α → List β} {n i : Nat} (hlen : ∀ x, (f x).length = n)
    (hi : i < n) (xs : List α) (j : Nat) : (xs.flatMap f)[n * j + i]? = xs[j]?.bind fun x => (f x)[i]? := by
  induction xs generalizing j with
  | nil => simp
  | cons x xs ih =>
    rw [List.flatMap_cons]
    cases j with
    | zero => rw [List.getElem?_append_left (by rw [hlen]; omega)]; simp
    | succ j =>
      rw [List.getElem?_append_right (by rw [hlen, Nat.mul_succ]; omega), hlen, List.getElem?_cons_succ, ← ih]
      congr 1
      rw [Nat.mul_succ]
      omega

/-- Bytes are read as a list where each of them is read so. -/
theorem readBytes_eq_of_read {m : Memory} {a n : Nat} {bs : List Byte} (hlen : bs.length = n)
    (h : ∀ i < n, Memory.read m (a + i) = bs.getD i 0) : Memory.readBytes m a n = bs := by
  subst hlen
  refine Eq.trans (readBytes_congr _ (Memory.writeBytes m a bs) _ _ _ fun i hi => ?_) (readBytes_writeBytes_same bs m a)
  rw [h i hi, read_writeBytes, if_pos (by omega), Nat.add_sub_cancel_left]

/-- Blocks written to memory are read back each at its own place. -/
theorem read_writeBytes_flatMap {α : Type} {f : α → List Byte} {n i : Nat} (hlen : ∀ x, (f x).length = n) (hi : i < n)
    (m : Memory) (a : Nat) {xs : List α} {j : Nat} {x : α} (hx : xs[j]? = some x) :
    Memory.read (Memory.writeBytes m a (xs.flatMap f)) (a + n * j + i) = (f x).getD i 0 := by
  have hentry : (xs.flatMap f)[n * j + i]? = some ((f x).getD i 0) := by
    rw [getElem?_flatMap_of_length hlen hi, hx, Option.bind_some, List.getD_eq_getElem?_getD,
      List.getElem?_eq_getElem (by rw [hlen]; exact hi), Option.getD_some]
  obtain ⟨hbound, -⟩ := List.getElem?_eq_some_iff.mp hentry
  rw [read_writeBytes, if_pos (by omega), Nat.add_assoc, Nat.add_sub_cancel_left, List.getD_eq_getElem?_getD, hentry,
    Option.getD_some]

/-! ### MSGDEC (R171, R172) -/

theorem length_decodedRecord (s : State) (j : Nat) : (decodedRecord s j).length = 8 := rfl

/-- A half's four nibbles, least-significant byte first. -/
theorem halfOfHex_eq_append (upper : Bool) (c0 c1 c2 c3 : Byte) :
    halfOfHex upper c0 c1 c2 c3 = hexval upper c2 ++ hexval upper c3 ++ hexval upper c0 ++ hexval upper c1 :=
  append_byteOfHex _ _ _ _

section
variable {s : State}

theorem exec_msgdec_of_long (h : s.cfg.dinCap < s.dlen.toNat) : exec .msgdec s = .next (s.reject .arg) := if_pos h

theorem exec_msgdec_of_fits (h : s.dlen.toNat ≤ s.cfg.dinCap) : exec .msgdec s = .next (decodeMessage s) :=
  if_neg (Nat.not_lt.mpr h)

/-- DCNT holds the count in every configuration: DLEN is a word. -/
theorem toNat_decodeMessage_dcnt (s : State) : (decodeMessage s).dcnt.toNat = s.dlen.toNat / 8 := by
  have hsmall := s.dlen.isLt
  exact (BitVec.toNat_ofNat (s.dlen.toNat / 8) 32).trans (Nat.mod_eq_of_lt (by omega))

theorem toNat_decodeMessage_resb (s : State) : (decodeMessage s).resb.toNat = s.dlen.toNat % 8 :=
  (BitVec.toNat_ofNat (s.dlen.toNat % 8) 32).trans (Nat.mod_eq_of_lt (by omega))

/-- Record `j` stands at its place in DOUT. -/
theorem read_decodeMessage_record {i j : Nat} (hi : i < 8) (hj : j < s.dlen.toNat / 8) :
    Memory.read (decodeMessage s).mem (0x400 + 8 * j + i) = (decodedRecord s j).getD i 0 := by
  rw [decodeMessage_mem]
  exact read_writeBytes_flatMap (length_decodedRecord s) hi _ _ (List.getElem?_range hj)

/-- Behind the records DOUT is 0x00. -/
theorem read_decodeMessage_rest {a : Nat} (hlo : 0x400 + 8 * (s.dlen.toNat / 8) ≤ a)
    (hhi : a < 0x400 + 8 * (s.cfg.dinCap / 8)) : Memory.read (decodeMessage s).mem a = 0x00 := by
  rw [decodeMessage_mem, read_writeBytes_other _ _ _ _ (.inr (by rw [length_decodedRecords]; exact hlo)), read_clear,
    if_pos ⟨by simp only [Buf.base]; omega, hhi⟩]
  rfl

theorem bytesKeptOutside_decodeMessage (h : s.dlen.toNat ≤ s.cfg.dinCap) :
    bytesKeptOutside 0x400 (8 * (s.cfg.dinCap / 8)) s (decodeMessage s) := by
  intro a ha
  have hfit := blocks_le_doutCap h
  unfold Config.doutCap at hfit
  rw [decodeMessage_mem, read_writeBytes_other, read_clear, if_neg]
  · simp only [Buf.base, Config.doutCap]; omega
  · rw [length_decodedRecords]; simp only [Buf.base]; omega

end

/-- The record of a block, by the digits of its characters. -/
theorem decodedRecord_eq (s : State) (j : Nat) :
    decodedRecord s j =
      let d := fun k => hexval s.cfg.hexUpper (Memory.read s.mem (0x200 + 8 * j + k))
      recordBytes (d 2 ++ d 3 ++ d 0 ++ d 1) (d 6 ++ d 7 ++ d 4 ++ d 5) := by
  simp only [decodedRecord, blockName, blockValue, halfOfHex_eq_append, Buf.addr, Buf.base, Nat.add_assoc]

/-- Settles O42: DOUT is cleared and the records written from its start. -/
theorem msgdecDecodesEveryWholeBlock : Obligations.MsgdecDecodesEveryWholeBlock := by
  refine ⟨decode_encode .msgdec, fun s => ⟨fun hlong => ?rejected, fun hfits => ?decoded⟩⟩
  case rejected =>
    rw [exec_msgdec_of_long hlong]
    exact rejectedWith_reject s .arg
  case decoded =>
    refine ⟨_, exec_msgdec_of_fits hfits, toNat_decodeMessage_dcnt s, rfl, toNat_decodeMessage_resb s,
      fun j hj => ?record, fun a hlo hhi => read_decodeMessage_rest hlo hhi, bytesKeptOutside_decodeMessage hfits,
      errWritten_setErr .ok s.status, by constructor <;> rfl, by constructor <;> rfl, rfl⟩
    case record =>
      exact (readBytes_eq_of_read (length_decodedRecord s j) fun i hi => read_decodeMessage_record hi hj).trans
        (decodedRecord_eq s j)

/-! ### The round trip (R175) -/

/-- The digits of a half, as a block spells them, stand for it. -/
theorem halfOfHex_hexchar (upper : Bool) (n : Half) :
    halfOfHex upper (hexchar (n.extractLsb' 4 4)) (hexchar (n.extractLsb' 0 4)) (hexchar (n.extractLsb' 12 4))
      (hexchar (n.extractLsb' 8 4)) = n := by
  simp only [halfOfHex_eq_append, hexval_hexchar]
  rw [BitVec.extractLsb'_append_extractLsb'_eq_extractLsb' (by decide),
    BitVec.extractLsb'_append_extractLsb'_eq_extractLsb' (by decide), BitVec.extractLsb'_append_extractLsb' (w := 12)]

/-- A block in DIN is decoded to the record of its name and value. -/
theorem decodedRecord_of_block {s : State} {j : Nat} {n v : Half}
    (h : ∀ i < 8, Memory.read s.mem (0x200 + 8 * j + i) = (blockChars n v).getD i 0) :
    decodedRecord s j = recordBytes n v := by
  have hread (i : Nat) (hi : i < 8) : Memory.read s.mem (Buf.din.addr (8 * j + i)) = (blockChars n v).getD i 0 := by
    rw [← h i hi, Buf.addr, Nat.add_assoc]
    rfl
  simp only [decodedRecord, blockName, blockValue, hread, Nat.reduceLT]
  exact congrArg₂ recordBytes (halfOfHex_hexchar _ n) (halfOfHex_hexchar _ v)

theorem length_chars (cfg : Config) (a : AddStep) : (a.chars cfg).length = 8 := rfl

/-- What accepted adds append to an empty message is the encoded message. -/
theorem AddsDone.encodedMessage_eq {as : List AddStep} {s t : State} (h : AddsDone as s t) (hempty : s.mlen = 0) :
    encodedMessage t = as.flatMap (AddStep.chars s.cfg) := by
  have hlen : t.mlen.toNat = (as.flatMap (AddStep.chars s.cfg)).length := by
    rw [h.mlen, hempty, List.length_flatMap]
    simp [length_chars, Nat.mul_comm]
  rw [encodedMessage, h.mem, hlen, hempty]
  exact readBytes_writeBytes_same _ _ _

/-- The record that decoding gives for each add, after the message is copied to DIN. -/
theorem AddsDone.decodedRecord_eq {as : List AddStep} {s t : State} (h : AddsDone as s t) (hempty : s.mlen = 0)
    {j : Nat} {a : AddStep} {v : Half} (ha : as[j]? = some a) (hv : a.value s.cfg = some v) :
    decodedRecord (copyToDin t) j = recordBytes (packName (lane a.opb 0) (lane a.opb 1) (lane a.opb 2)) v := by
  refine decodedRecord_of_block fun i hi => ?_
  simp only [copyToDin, h.encodedMessage_eq hempty]
  rw [read_writeBytes_flatMap (length_chars s.cfg) hi _ _ ha, AddStep.chars, hv, Option.getD_some]

/-- The fields of a record of DOUT. -/
theorem dout_of_record {u : State} {j : Nat} {n v : Half}
    (h : ∀ i < 8, Memory.read u.mem (0x400 + 8 * j + i) = (recordBytes n v).getD i 0) :
    doutByte u j 0 = (unpackName n).s0 ∧ doutByte u j 1 = (unpackName n).s1 ∧ doutByte u j 2 = (unpackName n).s2
      ∧ doutValue u j = v := by
  have hbyte (i : Nat) (hi : i < 8) : doutByte u j i = (recordBytes n v).getD i 0 := by
    rw [← h i hi, doutByte, Buf.addr, Nat.add_assoc]
    rfl
  refine ⟨hbyte 0 (by decide), hbyte 1 (by decide), hbyte 2 (by decide), ?_⟩
  rw [doutValue, hbyte 5 (by decide), hbyte 4 (by decide)]
  exact BitVec.extractLsb'_append_extractLsb' (w := 8) (len := 8)

/-- The value of MSGADDI in a message is ten times its integer (R164). -/
theorem AddStep.toInt_value_of_msgaddi {a : AddStep} {cfg : Config} {v : Half} (hi : a.instr = .msgaddi)
    (hv : a.value cfg = some v) : v.toInt = 10 * a.opa.toInt := by
  refine toInt_of_scale10i_eq_some (Eq.trans ?_ hv)
  rw [AddStep.value, hi]

/-- Settles O43: the adds are all accepted, DIN receives their blocks, and each block is decoded to its record. -/
theorem messageSurvivesEncodeThenDecode : Obligations.MessageSurvivesEncodeThenDecode := by
  intro s as hcount hcap hvals
  obtain ⟨t, hrun, hdone⟩ := runAdds_of_values as
    (State.accept { s with mem := Memory.clear s.mem 0x100 24, mlen := 0 } 0 0) hvals (by simp; omega)
  have hdlen : (copyToDin t).dlen.toNat = 8 * as.length := hdone.mlen.trans (Nat.zero_add _)
  have hblocks : (copyToDin t).dlen.toNat / 8 = as.length := by omega
  have hfits : (copyToDin t).dlen.toNat ≤ (copyToDin t).cfg.dinCap := by
    have hcfg : (copyToDin t).cfg = s.cfg := hdone.cfg
    rw [hdlen, hcfg]
    exact hcap
  refine ⟨_, t, _, exec_msgclr s, hrun, exec_msgdec_of_fits hfits, (toNat_decodeMessage_dcnt _).trans hblocks,
    fun j a ha => ?_⟩
  obtain ⟨hj, -⟩ := List.getElem?_eq_some_iff.mp ha
  obtain ⟨v, hv⟩ := Option.isSome_iff_exists.mp (hvals a (List.mem_of_getElem? ha))
  have hrecord := hdone.decodedRecord_eq rfl ha hv
  obtain ⟨h0, h1, h2, hvalue⟩ := dout_of_record fun i hi =>
    hrecord ▸ read_decodeMessage_record hi (by rw [hblocks]; exact hj)
  rw [unpackName_packName] at h0 h1 h2
  exact ⟨h0, h1, h2, hvalue ▸ hv, fun hi => hvalue ▸ a.toInt_value_of_msgaddi hi hv⟩

end Sys2Proof.Machine
end

section
/-! The decimal text of a value: digits without a leading zero, and one fractional digit (42_message.md R173, log 20). -/

namespace Sys2Proof.Machine

/-- Digits that denote a number, without a leading zero. -/
structure IsDecimal (ds : List Byte) (k : Nat) : Prop where
  digits : ∀ c ∈ ds, 0x30 ≤ c.toNat ∧ c.toNat ≤ 0x39
  denotes : ds.foldl (fun acc c => 10 * acc + (c.toNat - 0x30)) 0 = k
  leading : ds = [0x30] ∨ ds.head? ≠ some 0x30
  nonempty : ds ≠ []

theorem toNat_decimalDigit {k : Nat} (h : k < 10) : (0x30 + BitVec.ofNat 8 k : Byte).toNat = 0x30 + k := by
  bv_omega

theorem isDecimal_singleton {k : Nat} (h : k < 10) : IsDecimal [0x30 + BitVec.ofNat 8 k] k where
  digits c hc := by
    rw [List.mem_singleton.mp hc, toNat_decimalDigit h]
    omega
  denotes := by
    rw [List.foldl_cons, List.foldl_nil, toNat_decimalDigit h]
    omega
  leading := by
    by_cases hz : (0x30 + BitVec.ofNat 8 k : Byte) = 0x30
    · exact .inl (by rw [hz])
    · exact .inr (by simpa using hz)
  nonempty := by simp

/-- One more digit behind a number that is not 0. -/
theorem IsDecimal.append_digit {ds : List Byte} {k : Nat} (h : IsDecimal ds (k / 10)) (hk : 10 ≤ k) :
    IsDecimal (ds ++ [0x30 + BitVec.ofNat 8 (k % 10)]) k where
  digits c hc := by
    rcases List.mem_append.mp hc with hc | hc
    · exact h.digits c hc
    · exact (isDecimal_singleton (Nat.mod_lt k (by decide))).digits c hc
  denotes := by
    rw [List.foldl_append, h.denotes, List.foldl_cons, List.foldl_nil, toNat_decimalDigit (Nat.mod_lt k (by decide))]
    omega
  leading := by
    right
    rw [List.head?_append_of_ne_nil ds h.nonempty]
    rcases h.leading with hzero | hlead
    · have hval := h.denotes
      rw [hzero] at hval
      have : k / 10 = 0 := hval.symm
      omega
    · exact hlead
  nonempty := by simp

theorem isDecimal_decDigits {fuel k : Nat} (h : k < fuel) : IsDecimal (decDigits fuel k) k := by
  induction fuel generalizing k with
  | zero => omega
  | succ f ih =>
    rw [decDigits]
    split
    · next hk => exact isDecimal_singleton hk
    · next hk => exact (ih (by omega)).append_digit (by omega)

theorem dec_of_lt_ten {k : Nat} (h : k < 10) : dec k = [0x30 + BitVec.ofNat 8 k] := if_pos h

/-- Settles O44: `dec` puts one digit after another, and the fraction of a tenth is a single one. -/
theorem renderDenotesTheTenths : Obligations.RenderDenotesTheTenths := by
  refine ⟨fun k => ?_, fun n => ⟨0x30 + BitVec.ofNat 8 (n.natAbs % 10), ?_, ?_⟩⟩
  · have h := isDecimal_decDigits (Nat.lt_succ_self k)
    exact ⟨h.digits, h.denotes, h.leading, h.nonempty⟩
  · exact_mod_cast toNat_decimalDigit (Nat.mod_lt n.natAbs (by decide))
  · rw [render, dec_of_lt_ten (Nat.mod_lt n.natAbs (by decide)), List.append_assoc]
    rfl

end Sys2Proof.Machine
end

section
/-! TXEXEC's issue: its checks, the units it captures, and the state the transaction starts from (43_transaction.md
R200-R202). -/

namespace Sys2Proof.Machine

variable {s : State}

theorem exec_txexec_of_bad (h : txArgumentsBad s = true) : exec .txexec s = .next (s.reject .arg) := if_pos h

theorem exec_txexec_of_good (h : ¬ txArgumentsBad s = true) : exec .txexec s = .next (startTransaction s) := if_neg h

/-- Settles O45: the three conditions are TXEXEC's checks, and each of them rejects. -/
theorem txexecRejectsBadArguments : Obligations.TxexecRejectsBadArguments := by
  intro s hbad
  rw [exec_txexec_of_bad ((txArgumentsBad_iff s).mpr hbad)]
  exact rejectedWith_reject s .arg

/-! ### The units (R201) -/

theorem readBytes_succ (m : Memory) (a n : Nat) :
    Memory.readBytes m a (n + 1) = Memory.read m a :: Memory.readBytes m (a + 1) n := by
  simp [Memory.readBytes, List.range_succ_eq_map, Function.comp_def, Nat.add_assoc, Nat.add_comm 1]

/-- In binary mode each pair of consecutive characters is one byte. -/
theorem bytesOfHex_readBytes (upper : Bool) (m : Memory) (a n : Nat) :
    bytesOfHex upper (Memory.readBytes m a (2 * n)) =
      (List.range n).map fun i => byteOfHex upper (Memory.read m (a + 2 * i)) (Memory.read m (a + 2 * i + 1)) := by
  induction n generalizing a with
  | zero => rfl
  | succ n ih =>
    have hpair (i : Nat) : a + 1 + 1 + 2 * i = a + 2 * (i + 1) := by omega
    rw [Nat.mul_succ, readBytes_succ, readBytes_succ, bytesOfHex, ih, List.range_succ_eq_map, List.map_cons,
      List.map_map]
    simp only [hpair, Function.comp_def, Nat.succ_eq_add_one, Nat.mul_zero, Nat.add_zero]

theorem txUnits_readBytes (upper mode : Bool) (m : Memory) {a n : Nat} (h : mode = true ∨ n % 2 = 0) :
    txUnits upper mode (Memory.readBytes m a n) =
      if mode = true then (List.range n).map fun i => Memory.read m (a + i)
      else (List.range (n / 2)).map fun i =>
        byteOfHex upper (Memory.read m (a + 2 * i)) (Memory.read m (a + 2 * i + 1)) := by
  unfold txUnits
  split
  · rfl
  · next hbinary =>
    have heven := h.resolve_left hbinary
    rw [← bytesOfHex_readBytes, Nat.mul_div_cancel' (Nat.dvd_of_mod_eq_zero heven)]

/-! ### The start (R200, R202) -/

/-- Outside RX and MOFF nothing is cleared. -/
theorem read_clearResponse_other (cfg : Config) (m : Memory) {a : Nat} (hrx : a < 0x800 ∨ 0x800 + cfg.rxCap ≤ a)
    (hmoff : a < 0xA00 ∨ 0xA00 + 2 * cfg.moffCap ≤ a) : Memory.read (clearResponse cfg m) a = Memory.read m a := by
  unfold clearResponse
  rw [read_clear, if_neg (by simp only [Buf.base]; omega), read_clear, if_neg (by simp only [Buf.base]; omega)]

theorem startTransaction_status (s : State) :
    (startTransaction s).status = setErr .ok (setBusy true (setTxres .none (setRxovf false s.status))) := rfl

theorem reservedKept_startTransaction (s : State) : reservedKept s.status (startTransaction s).status :=
  (((reservedKept_setRxovf false _).trans (reservedKept_setTxres .none _)).trans (reservedKept_setBusy true _)).trans
    (reservedKept_setErr .ok _)

/-- Settles O46: none of the checks applies, so the transaction starts. -/
theorem txexecStartsTheTransaction : Obligations.TxexecStartsTheTransaction := by
  refine ⟨decode_encode .txexec, fun s hlen hmode hexpect => ?_⟩
  have hgood : ¬ txArgumentsBad s = true := by
    have hpairs : ¬ (txcfgMode s.txcfg = false ∧ s.txlen.toNat % 2 = 1) := by
      rintro ⟨hbinary, hodd⟩
      rcases hmode with hat | heven
      · exact Bool.false_ne_true (hbinary.symm.trans hat)
      · omega
    rw [txArgumentsBad_iff]
    rintro (h | h | h)
    exacts [Nat.not_lt.mpr hlen h, hpairs h, Nat.not_lt.mpr hexpect h]
  have frame := blockFrame_startTransaction s
  refine ⟨startTransaction s, exec_txexec_of_good hgood, txUnits_readBytes _ _ _ hmode, rfl, rfl, rfl, rfl, rfl, rfl,
    rfl, le_sample_last s.clock, fun j hj => ?rx, fun j hj => ?moff, fun a hrx hmoff => ?outside, rfl, rfl, rfl, rfl,
    ?busy, ?err, ?txres, ?rxovf, frame.berr, reservedKept_startTransaction s, frame.toHostSideKept, rfl, rfl, rfl, rfl⟩
  case rx => exact read_clearResponse _ _ _ (.inl (holds_addr (b := .rx) hj))
  case moff => exact read_clearResponse _ _ _ (.inr (holds_addr (b := .moff) hj))
  case outside => exact read_clearResponse_other _ _ hrx hmoff
  all_goals simp [startTransaction_status, ErrCode.code, TxRes.code]

end Sys2Proof.Machine
end

section
/-! The engine's iteration, part by part: an equation per case of the send part, of the receive part and of the
iteration, and what each part leaves unchanged (43_transaction.md R203-R210). -/

namespace Sys2Proof.Machine

variable {s : State}

/-! ### The send part (R204) -/

theorem sendPart_of_unit {u : Byte} (h : s.eng.units[s.eng.k]? = some u) :
    sendPart s = { s with
      chan := s.chan.write u
      eng := { s.eng with k := s.eng.k + 1, deadline := s.clock.sample.last + s.eng.timeout }
      txsent := BitVec.ofNat 32 (s.eng.k + 1)
      clock := s.clock.sample } := by
  rcases sendPart_cases s with ⟨v, hv, hs⟩ | ⟨hnone, -⟩
  · obtain rfl : u = v := Option.some.inj (h.symm.trans hv)
    exact hs
  · rw [List.getElem?_eq_none hnone] at h
    cases h

theorem sendPart_of_sent (h : s.eng.units.length ≤ s.eng.k) : sendPart s = s := by
  rcases sendPart_cases s with ⟨u, hu, -⟩ | ⟨-, hs⟩
  · rw [List.getElem?_eq_none h] at hu
    cases hu
  · exact hs

/-- Settles O47: the two cases of the send part. -/
theorem sendPartSendsOneUnit : Obligations.SendPartSendsOneUnit :=
  fun _ => ⟨fun _ hu => sendPart_of_unit hu, sendPart_of_sent⟩

/-- All that the send part can change. -/
theorem sendPart_frame (s : State) :
    sendPart s = { s with
      chan := { s.chan with outbound := (sendPart s).chan.outbound }
      eng := { s.eng with k := (sendPart s).eng.k, deadline := (sendPart s).eng.deadline }
      txsent := (sendPart s).txsent
      clock := (sendPart s).clock } := by
  rcases sendPart_cases s with ⟨u, -, hs⟩ | ⟨-, hs⟩
  · rw [hs]; rfl
  · simp only [hs]

@[simp] theorem sendPart_cfg (s : State) : (sendPart s).cfg = s.cfg :=
  congrArg (fun t => t.cfg) (sendPart_frame s)
@[simp] theorem sendPart_status (s : State) : (sendPart s).status = s.status :=
  congrArg (fun t => t.status) (sendPart_frame s)
@[simp] theorem sendPart_rxlen (s : State) : (sendPart s).rxlen = s.rxlen :=
  congrArg (fun t => t.rxlen) (sendPart_frame s)
@[simp] theorem sendPart_mcount (s : State) : (sendPart s).mcount = s.mcount :=
  congrArg (fun t => t.mcount) (sendPart_frame s)
@[simp] theorem sendPart_agenda (s : State) : (sendPart s).agenda = s.agenda :=
  congrArg (fun t => t.agenda) (sendPart_frame s)
@[simp] theorem sendPart_inbound (s : State) : (sendPart s).chan.inbound = s.chan.inbound :=
  congrArg (fun t => t.chan.inbound) (sendPart_frame s)
@[simp] theorem sendPart_isOpen (s : State) : (sendPart s).chan.isOpen = s.chan.isOpen :=
  congrArg (fun t => t.chan.isOpen) (sendPart_frame s)
@[simp] theorem sendPart_expect (s : State) : (sendPart s).eng.expect = s.eng.expect :=
  congrArg (fun t => t.eng.expect) (sendPart_frame s)
@[simp] theorem sendPart_marker (s : State) : (sendPart s).eng.marker = s.eng.marker :=
  congrArg (fun t => t.eng.marker) (sendPart_frame s)

/-- The send part does not look at the agenda. -/
theorem sendPart_withAgenda (s : State) (rest : List Event) :
    sendPart { s with agenda := rest } = { sendPart s with agenda := rest } := by
  rcases sendPart_cases s with ⟨u, hu, hs⟩ | ⟨hsent, hs⟩ <;> rw [hs]
  · exact sendPart_of_unit (s := { s with agenda := rest }) hu
  · exact sendPart_of_sent (s := { s with agenda := rest }) hsent

/-! ### Finish (R210) -/

theorem code_txResult (s : State) :
    (txResult s).code = if s.eng.expect ≤ s.mcount.toNat then 1 else if s.rxlen = 0 then 2 else 3 := by
  unfold txResult
  split
  · rfl
  · split <;> rfl

theorem statusTxres_finishTransaction (s : State) : statusTxres (finishTransaction s).status = (txResult s).code := by
  simp

/-- Finish writes BUSY and TXRES, no other bit of STATUS. -/
theorem getLsbD_finishTransaction_status (s : State) {k : Nat} (h0 : k ≠ 0) (h8 : k ≠ 8) (h9 : k ≠ 9) :
    (finishTransaction s).status.getLsbD k = s.status.getLsbD k := by
  rw [finishTransaction_status, getLsbD_setBusy, if_neg h0, getLsbD_setTxres, if_neg (by omega)]

/-- Settles O52: the fields Finish writes, one by one. -/
theorem finishClassifiesTheResponse : Obligations.FinishClassifiesTheResponse := by
  refine fun s => ⟨rfl, rfl, ?result, statusBusy_setBusy false _,
    fun k h0 h8 h9 => getLsbD_finishTransaction_status s h0 h8 h9, rfl⟩
  case result =>
    rw [statusTxres_finishTransaction, code_txResult]
    split
    · rfl
    · split <;> rfl

/-! ### The receive part (R206, R207) -/

theorem receivePart_of_empty (h : s.chan.inbound = []) : receivePart s = s := by
  simp only [receivePart, Channel.read, h]

theorem receivePart_of_marker {rest : List Byte} (h : s.chan.inbound = s.eng.marker :: rest) :
    receivePart s = receiveMarker { s with chan := { s.chan with inbound := rest } } := by
  simp only [receivePart, Channel.read, h, if_true]

theorem receivePart_of_other {b : Byte} {rest : List Byte} (h : s.chan.inbound = b :: rest) (hb : b ≠ s.eng.marker) :
    receivePart s = receiveData { s with chan := { s.chan with inbound := rest } } b := by
  simp only [receivePart, Channel.read, h, if_neg hb]

theorem receiveMarker_of_reached (h : s.eng.expect ≤ (s.mcount + 1).toNat) :
    receiveMarker s = finishTransaction (countMarker s) := if_pos h

theorem receiveMarker_of_missing (h : ¬ s.eng.expect ≤ (s.mcount + 1).toNat) : receiveMarker s = countMarker s :=
  if_neg h

/-- Whether or not the loop ends, the marker is counted. -/
theorem receiveMarker_counts (s : State) :
    (receiveMarker s).mem = (countMarker s).mem ∧ (receiveMarker s).mcount = s.mcount + 1
      ∧ (receiveMarker s).rxlen = s.rxlen := by
  rw [receiveMarker_eq_count]
  split <;> exact ⟨rfl, rfl, rfl⟩

theorem receiveData_of_full {b : Byte} (h : ¬ s.rxlen.toNat < s.cfg.rxCap) :
    receiveData s b = { s with status := setRxovf true s.status } := if_neg h

/-! ### The iteration (R203, R205) -/

theorem iterate_of_passed (h : (sendPart s).eng.deadline < (sendPart s).clock.sample.last) :
    iterate s = finishTransaction { sendPart s with clock := (sendPart s).clock.sample } := if_pos h

theorem iterate_of_inTime (h : (sendPart s).clock.sample.last ≤ (sendPart s).eng.deadline) :
    iterate s = receivePart { sendPart s with clock := (sendPart s).clock.sample } := if_neg (Nat.not_lt.mpr h)

theorem iterate_of_empty (h : (sendPart s).clock.sample.last ≤ (sendPart s).eng.deadline) (hin : s.chan.inbound = []) :
    iterate s = { sendPart s with clock := (sendPart s).clock.sample } := by
  rw [iterate_of_inTime h]
  exact receivePart_of_empty ((sendPart_inbound s).trans hin)

/-- The state in which an iteration treats the byte it has read: unit and samples taken, the byte off the FIFO. -/
def readByte (s : State) (rest : List Byte) : State :=
  { sendPart s with
    clock := (sendPart s).clock.sample
    chan := { (sendPart s).chan with inbound := rest } }

@[simp] theorem readByte_cfg (s : State) (rest : List Byte) : (readByte s rest).cfg = s.cfg := sendPart_cfg s
@[simp] theorem readByte_status (s : State) (rest : List Byte) : (readByte s rest).status = s.status :=
  sendPart_status s
@[simp] theorem readByte_rxlen (s : State) (rest : List Byte) : (readByte s rest).rxlen = s.rxlen := sendPart_rxlen s
@[simp] theorem readByte_mcount (s : State) (rest : List Byte) : (readByte s rest).mcount = s.mcount :=
  sendPart_mcount s
@[simp] theorem readByte_mem (s : State) (rest : List Byte) : (readByte s rest).mem = s.mem := sendPart_mem s
@[simp] theorem readByte_expect (s : State) (rest : List Byte) : (readByte s rest).eng.expect = s.eng.expect :=
  sendPart_expect s

theorem iterate_of_marker (h : (sendPart s).clock.sample.last ≤ (sendPart s).eng.deadline) {rest : List Byte}
    (hin : s.chan.inbound = s.eng.marker :: rest) : iterate s = receiveMarker (readByte s rest) := by
  rw [iterate_of_inTime h]
  exact receivePart_of_marker (by simpa using hin)

theorem iterate_of_other (h : (sendPart s).clock.sample.last ≤ (sendPart s).eng.deadline) {b : Byte} {rest : List Byte}
    (hin : s.chan.inbound = b :: rest) (hb : b ≠ s.eng.marker) : iterate s = receiveData (readByte s rest) b := by
  rw [iterate_of_inTime h]
  exact receivePart_of_other (by simpa using hin) (by simpa using hb)

/-! ### The step that is the engine's (R203, R282, log 1) -/

theorem step_of_engineTurn {rest : List Event} (h : s.engineTurn rest) :
    step s = .next (engineStep { s with agenda := rest }) := by
  rcases h with ha | ⟨ha, rfl⟩
  · unfold step nextEvent
    rw [ha]
    rfl
  · have hs : { s with agenda := [] } = s := by rw [← ha]
    rw [hs]
    unfold step nextEvent
    rw [ha]
    rfl

theorem engineStep_of_run (h : s.eng.state = .run) : engineStep s = iterate s := by
  unfold engineStep
  rw [h]

theorem engineStep_of_idle (h : s.eng.state = .idle) : engineStep s = s := by
  unfold engineStep
  rw [h]

theorem step_of_engineTurn_run {rest : List Event} (h : s.engineTurn rest) (hrun : s.eng.state = .run) :
    step s = .next (iterate { s with agenda := rest }) :=
  (step_of_engineTurn h).trans (congrArg Host.Outcome.next (engineStep_of_run hrun))

theorem step_of_engineTurn_idle {rest : List Event} (h : s.engineTurn rest) (hidle : s.eng.state = .idle) :
    step s = .next { s with agenda := rest } :=
  (step_of_engineTurn h).trans (congrArg Host.Outcome.next (engineStep_of_idle hidle))

/-- Settles O56: the engine's step, in its two states. -/
theorem engineStepIteratesWhileRunning : Obligations.EngineStepIteratesWhileRunning :=
  fun _ _ hturn => ⟨step_of_engineTurn_run hturn, step_of_engineTurn_idle hturn⟩

/-- Settles O48: the iteration is a Finish behind the send part, neither of which reads a byte. -/
theorem passedDeadlineEndsTheLoopUnread : Obligations.PassedDeadlineEndsTheLoopUnread := by
  intro s rest hrun hturn hpassed
  have hiter := iterate_of_passed (s := { s with agenda := rest }) (by rwa [sendPart_withAgenda])
  rw [sendPart_withAgenda] at hiter
  refine ⟨_, step_of_engineTurn_run hturn hrun, ?_⟩
  rw [hiter]
  exact ⟨rfl, rfl, sendPart_rxlen s, sendPart_mcount s, sendPart_mem s, statusBusy_setBusy false _, by simp, rfl⟩

/-- Settles O49: the receive part finds nothing to read. -/
theorem emptyIterationChangesNothing : Obligations.EmptyIterationChangesNothing := by
  intro s rest hrun hturn hempty
  have inTime (h : (sendPart s).clock.sample.last ≤ (sendPart s).eng.deadline) :
      step s = .next { sendPart s with agenda := rest, clock := (sendPart s).clock.sample } := by
    have hiter := iterate_of_empty (s := { s with agenda := rest }) (by rwa [sendPart_withAgenda]) hempty
    rw [step_of_engineTurn_run hturn hrun, hiter, sendPart_withAgenda]
  refine ⟨inTime, fun hsent hsample => ?_⟩
  rw [sendPart_of_sent hsent] at inTime
  exact inTime hsample

/-! ### A marker (R206, R208) -/

/-- While RUN there is room for one more marker, so the count does not wrap. -/
theorem State.Inv.toNat_mcount_succ (h : s.Inv) (hrun : s.running) : (s.mcount + 1).toNat = s.mcount.toNat + 1 := by
  obtain ⟨-, -, -, hroom, -⟩ := h.engine
  obtain ⟨-, -, -, hcap⟩ := legal_bounds h.legal
  have hlt := hroom hrun
  bv_omega

/-- RXLEN fits the two bytes of a marker offset. -/
theorem State.Inv.rxlen_lt (h : s.Inv) : s.rxlen.toNat < 65536 := by
  obtain ⟨-, -, hcap, -⟩ := legal_bounds h.legal
  have hwithin := h.rx.within
  omega

theorem State.Inv.isOpen_of_running (h : s.Inv) (hrun : s.running) : s.chan.isOpen = true := by
  obtain ⟨hopen, -, -⟩ := h.channel
  exact hopen.mpr hrun

/-- Settles O50: the byte is counted by `receiveMarker`, which ends the loop once the count is reached. -/
theorem markerIsCountedAndNeverStored : Obligations.MarkerIsCountedAndNeverStored := by
  intro s rest hinv hrun htime hin
  rw [iterate_of_marker htime hin]
  obtain ⟨hmem, hmcount, hrxlen⟩ := receiveMarker_counts (readByte s rest)
  have hmem' : (receiveMarker (readByte s rest)).mem =
      Memory.writeBytes s.mem (0xA00 + 2 * s.mcount.toNat) (offsetBytes s.rxlen) := by
    simp [hmem, countMarker, Buf.addr, Buf.base]
  have hcount := hinv.toNat_mcount_succ hrun
  refine ⟨?count, markerOffset_of_offsetBytes hmem' hinv.rxlen_lt, fun a ha => ?outside,
    hrxlen.trans (readByte_rxlen s rest), ?ending⟩
  case count => rw [hmcount, readByte_mcount, hcount]
  case outside =>
    rw [hmem']
    exact read_writeBytes_other _ _ _ _ ha
  case ending =>
    split
    · next hreached =>
      have hfinish : (readByte s rest).eng.expect ≤ ((readByte s rest).mcount + 1).toNat := by
        rwa [readByte_expect, readByte_mcount, hcount]
      rw [receiveMarker_of_reached hfinish]
      refine ⟨rfl, ?_, rfl⟩
      rw [statusTxres_finishTransaction, code_txResult]
      exact if_pos hfinish
    · next hmissing =>
      rw [receiveMarker_of_missing (by rwa [readByte_expect, readByte_mcount, hcount])]
      exact ⟨rfl, readByte_status s rest, rfl, (sendPart_isOpen s).trans (hinv.isOpen_of_running hrun)⟩

/-! ### Another byte (R207) -/

/-- Settles O51: the byte is treated by `receiveData`. -/
theorem otherByteIsAppendedOrDropped : Obligations.OtherByteIsAppendedOrDropped := by
  intro s b rest hinv hrun htime hin hb
  rw [iterate_of_other htime hin hb]
  split
  · next hroom =>
    rw [receiveData_eq_append (readByte s rest) b (by simpa using hroom)]
    have hmem : (appendData (readByte s rest) b).mem = Memory.write s.mem (0x800 + s.rxlen.toNat) b := by
      simp [appendData, Buf.addr, Buf.base]
    refine ⟨rfl, sendPart_mcount s, rfl, rfl, ?length, ?stored, fun a ha => ?outside, readByte_status s rest⟩
    case length =>
      rw [← rxlen_succ hinv.legal hroom, ← sendPart_rxlen s]
      rfl
    case stored => rw [hmem, read_write_same]
    case outside => rw [hmem, read_write_other _ _ _ _ (by omega)]
  · next hfull =>
    rw [receiveData_of_full (by simpa using hfull)]
    refine ⟨rfl, sendPart_mcount s, rfl, rfl, sendPart_rxlen s, fun a => by simp, statusRxovf_setRxovf true _,
      fun k hk => ?_⟩
    rw [readByte_status, getLsbD_setRxovf, if_neg hk]

end Sys2Proof.Machine
end

section
/-! A transaction along a run: with nothing left to send it waits as long as its deadline is ahead (43_transaction.md
R213), and it ends when the clock grows (R216, 70_reset_and_hazards.md R290). -/

namespace Sys2Proof.Machine

/-! ### Runs -/

theorem run_succ_of_step {s t : State} (h : step s = .next t) (n : Nat) : core.run (n + 1) s = core.run n t := by
  have hcore : core.step s = .next t := h
  simp only [Host.Core.run, hcore]

/-! ### Samples from the pending increments (log 3) -/

theorem sample_of_pending {c : Clock} {d : Nat} {ds : List Nat} (h : c.pending = d :: ds) :
    c.sample = { c with last := c.last + d, pending := ds } := by
  simp only [Clock.sample, h]

section
variable {s t : State} {n : Nat}

/-! ### Waiting for the deadline (R213) -/

/-- A running transaction that has sent its units and whose next `n` samples are known to be in time. -/
structure Waiting (n : Nat) (s : State) : Prop where
  run : s.eng.state = .run
  sent : s.eng.units.length ≤ s.eng.k
  known : n ≤ s.clock.pending.length
  inTime : s.clock.last + (s.clock.pending.take n).sum ≤ s.eng.deadline

/-- A step that takes no sample leaves one more in time than is needed. -/
theorem Waiting.of_same_clock (h : Waiting (n + 1) s) (heng : t.eng = s.eng) (hclock : t.clock = s.clock) :
    Waiting n t where
  run := heng ▸ h.run
  sent := heng ▸ h.sent
  known := by rw [hclock]; exact Nat.le_of_succ_le h.known
  inTime := by
    have hfewer : (s.clock.pending.take n).sum ≤ (s.clock.pending.take (n + 1)).sum := by
      rw [List.take_add_one, List.sum_append]
      exact Nat.le_add_right _ _
    have htime := h.inTime
    rw [heng, hclock]
    omega

theorem Waiting.exists_sample (h : Waiting (n + 1) s) :
    ∃ d ds, s.clock.pending = d :: ds ∧ s.clock.sample = { s.clock with last := s.clock.last + d, pending := ds } := by
  obtain ⟨d, ds, hp⟩ := List.exists_cons_of_length_pos (Nat.lt_of_lt_of_le n.succ_pos h.known)
  exact ⟨d, ds, hp, sample_of_pending hp⟩

theorem Waiting.sample_le_deadline (h : Waiting (n + 1) s) : s.clock.sample.last ≤ s.eng.deadline := by
  obtain ⟨d, ds, hp, hsample⟩ := h.exists_sample
  have htime := h.inTime
  rw [hp, List.take_succ_cons, List.sum_cons] at htime
  rw [hsample]
  dsimp only
  omega

theorem Waiting.of_sample (h : Waiting (n + 1) s) (heng : t.eng = s.eng) (hclock : t.clock = s.clock.sample) :
    Waiting n t := by
  obtain ⟨d, ds, hp, hsample⟩ := h.exists_sample
  have hknown := h.known
  have htime := h.inTime
  rw [hp, List.length_cons] at hknown
  rw [hp, List.take_succ_cons, List.sum_cons] at htime
  refine ⟨heng ▸ h.run, heng ▸ h.sent, ?_, ?_⟩ <;> rw [hclock, hsample]
  · exact Nat.le_of_succ_le_succ hknown
  · rw [heng]
    dsimp only
    omega

/-- While it waits, an iteration is its receive part. -/
theorem Waiting.iterate_eq (h : Waiting (n + 1) s) : iterate s = receivePart { s with clock := s.clock.sample } := by
  have hsend := sendPart_of_sent h.sent
  rw [iterate_of_inTime (by rw [hsend]; exact h.sample_le_deadline), hsend]

/-- With nothing received and nobody else moving, only the clock moves. -/
theorem Waiting.run_silent (h : Waiting n s) (ha : s.agenda = []) (hin : s.chan.inbound = []) :
    ∃ c, core.run n s = .next { s with clock := c } ∧ c.last = s.clock.last + (s.clock.pending.take n).sum := by
  induction n generalizing s with
  | zero => exact ⟨s.clock, rfl, rfl⟩
  | succ n ih =>
    have hstep : step s = .next { s with clock := s.clock.sample } := by
      have hiter := h.iterate_eq.trans (receivePart_of_empty (s := { s with clock := s.clock.sample }) hin)
      rw [step_of_engineTurn_run (.inr ⟨ha, rfl⟩) h.run, ← ha, hiter]
    obtain ⟨c, hrun, hlast⟩ := ih (h.of_sample (t := { s with clock := s.clock.sample }) rfl rfl) ha hin
    refine ⟨c, (run_succ_of_step hstep n).trans hrun, ?_⟩
    obtain ⟨d, ds, hp, hsample⟩ := h.exists_sample
    rw [hlast, hsample, hp, List.take_succ_cons, List.sum_cons, Nat.add_assoc]

/-! ### Waiting while other bytes arrive and the host is at work (R213) -/

/-- No marker, no CMD write and no reset lies ahead. -/
structure Undisturbed (s : State) : Prop where
  inbound : s.eng.marker ∉ s.chan.inbound
  agenda : ∀ e ∈ s.agenda, e ≠ .reset ∧ e ≠ .deliver s.eng.marker ∧ ¬ e.writesCmd

/-- The transaction is where it was: no marker counted, not ended. -/
structure TransactionKept (s t : State) : Prop where
  eng : t.eng = s.eng
  mcount : t.mcount = s.mcount
  isOpen : t.chan.isOpen = s.chan.isOpen
  busy : statusBusy t.status = statusBusy s.status

theorem TransactionKept.refl (s : State) : TransactionKept s s := ⟨rfl, rfl, rfl, rfl⟩

theorem TransactionKept.trans {u : State} (h : TransactionKept s t) (k : TransactionKept t u) : TransactionKept s u :=
  ⟨k.eng.trans h.eng, k.mcount.trans h.mcount, k.isOpen.trans h.isOpen, k.busy.trans h.busy⟩

/-- Nothing new lies ahead where the FIFO and the agenda only lose entries. -/
theorem Undisturbed.of_subset (h : Undisturbed s) (heng : t.eng = s.eng) (hin : t.chan.inbound ⊆ s.chan.inbound)
    (ha : t.agenda ⊆ s.agenda) : Undisturbed t where
  inbound hm := h.inbound (heng ▸ hin hm)
  agenda e he := heng ▸ h.agenda e (ha he)

/-- What a step of a waiting, undisturbed transaction comes to: it is where it was, with `n` samples still in time. -/
structure WaitsOn (n : Nat) (s t : State) : Prop where
  kept : TransactionKept s t
  waiting : Waiting n t
  undisturbed : Undisturbed t

/-- Appended or dropped, a byte other than the marker is no event of the transaction. -/
theorem receiveData_kept (s : State) (b : Byte) :
    TransactionKept s (receiveData s b) ∧ (receiveData s b).clock = s.clock ∧ (receiveData s b).chan = s.chan
      ∧ (receiveData s b).agenda = s.agenda := by
  rcases receiveData_cases s b with ⟨-, hd⟩ | ⟨-, hd⟩ <;> rw [hd]
  · exact ⟨⟨rfl, rfl, rfl, rfl⟩, rfl, rfl, rfl⟩
  · exact ⟨⟨rfl, rfl, rfl, by simp⟩, rfl, rfl, rfl⟩

theorem waitsOn_iterate (h : Waiting (n + 1) s) (hq : Undisturbed s) : WaitsOn n s (iterate s) := by
  rw [h.iterate_eq]
  rcases receivePart_cases { s with clock := s.clock.sample } with ⟨-, hr⟩ | ⟨b, rest, hin, ⟨hb, -⟩ | ⟨-, hr⟩⟩
  · rw [hr]
    exact ⟨⟨rfl, rfl, rfl, rfl⟩, h.of_sample rfl rfl,
      hq.of_subset rfl (List.Subset.refl _) (List.Subset.refl _)⟩
  · have hmarker : s.eng.marker ∈ s.chan.inbound := by
      rw [hin, hb]
      exact List.mem_cons_self
    exact absurd hmarker hq.inbound
  · rw [hr]
    obtain ⟨kept, hclock, hchan, hagenda⟩ := receiveData_kept
      { s with clock := s.clock.sample, chan := { s.chan with inbound := rest } } b
    refine ⟨⟨kept.eng, kept.mcount, kept.isOpen, kept.busy⟩, h.of_sample kept.eng hclock,
      hq.of_subset kept.eng ?_ ?_⟩
    · rw [hchan, hin]
      exact List.subset_cons_self b rest
    · rw [hagenda]
      exact List.Subset.refl _

/-- A step that takes no sample and puts nothing ahead. -/
theorem waitsOn_of_same_clock (h : Waiting (n + 1) s) (hq : Undisturbed s) (hkept : TransactionKept s t)
    (hclock : t.clock = s.clock) (hin : t.chan.inbound ⊆ s.chan.inbound) (ha : t.agenda ⊆ s.agenda) : WaitsOn n s t :=
  ⟨hkept, h.of_same_clock hkept.eng hclock, hq.of_subset hkept.eng hin ha⟩

/-- What an access of the host other than a CMD write leaves alone. -/
structure AccessKept (s t : State) : Prop extends EngineKept s t where
  busy : statusBusy t.status = statusBusy s.status
  agenda : t.agenda = s.agenda

theorem AccessKept.transactionKept (h : AccessKept s t) : TransactionKept s t :=
  ⟨h.eng, h.mcount, by rw [h.chan], h.busy⟩

theorem accessKept_busError (s : State) : AccessKept s s.busError := ⟨by constructor <;> rfl, by simp, rfl⟩

theorem accessKept_writeReg (s : State) (r : Reg) (v : Word) : AccessKept s (writeReg s r v) := by
  cases r <;> exact ⟨by constructor <;> rfl, rfl, rfl⟩

theorem accessKept_hostRead (s : State) (width : Nat) (addr : HostAddr) : AccessKept s (hostRead s width addr) := by
  rcases hostRead_cases s width addr with ⟨v, -, hr⟩ | ⟨-, hr⟩ <;> rw [hr]
  · exact ⟨by constructor <;> rfl, rfl, rfl⟩
  · exact ⟨by constructor <;> rfl, by simp, rfl⟩

theorem exists_hostWrite_eq_next {width : Nat} {addr : HostAddr} {v : Word}
    (hcmd : ¬ Event.writesCmd (.host (.write width addr v))) (s : State) :
    ∃ t, hostWrite s width addr v = .next t ∧ AccessKept s t := by
  rcases hostWrite_cases s width addr v with ⟨rfl, rfl, -⟩ | ⟨r, -, -, -, hw⟩ | ⟨b, -, -, -, hw⟩ | hw
  · exact absurd ⟨v, rfl⟩ hcmd
  · exact ⟨_, hw, accessKept_writeReg s r v⟩
  · exact ⟨_, hw, by constructor <;> rfl, rfl, rfl⟩
  · exact ⟨_, hw, accessKept_busError s⟩

/-- The delivery of a byte other than the marker. -/
theorem Undisturbed.after_deliver (h : Undisturbed s) {b : Byte} (hb : b ≠ s.eng.marker) :
    Undisturbed { s with chan := s.chan.deliver b } where
  agenda := h.agenda
  inbound := by
    dsimp only
    unfold Channel.deliver
    split
    · rw [List.mem_append, List.mem_singleton]
      exact fun hm => hm.elim h.inbound (fun e => hb e.symm)
    · exact h.inbound

/-- Each event that may come while the transaction is undisturbed leaves it waiting. -/
theorem exists_performEvent (e : Event) (h : Waiting (n + 1) s) (hq : Undisturbed s)
    (he : e ≠ .reset ∧ e ≠ .deliver s.eng.marker ∧ ¬ e.writesCmd) :
    ∃ t, performEvent e s = .next t ∧ WaitsOn n s t := by
  obtain ⟨hreset, hdeliver, hcmd⟩ := he
  have ofAccess {t : State} (hkept : AccessKept s t) : WaitsOn n s t :=
    waitsOn_of_same_clock h hq hkept.transactionKept hkept.clock (by rw [hkept.chan]; exact List.Subset.refl _)
      (by rw [hkept.agenda]; exact List.Subset.refl _)
  cases e with
  | engine => exact ⟨_, congrArg Host.Outcome.next (engineStep_of_run h.run), waitsOn_iterate h hq⟩
  | deliver b =>
    have hb : b ≠ s.eng.marker := fun hb => hdeliver (by rw [hb])
    exact ⟨_, rfl, ⟨rfl, rfl, deliver_isOpen s.chan b, rfl⟩, h.of_same_clock rfl rfl, hq.after_deliver hb⟩
  | reset => exact absurd rfl hreset
  | host a =>
    cases a with
    | read width addr => exact ⟨_, rfl, ofAccess (accessKept_hostRead s width addr)⟩
    | write width addr v =>
      obtain ⟨t, ht, hkept⟩ := exists_hostWrite_eq_next hcmd s
      exact ⟨t, ht, ofAccess hkept⟩

theorem exists_step_waitsOn (h : Waiting (n + 1) s) (hq : Undisturbed s) :
    ∃ t, step s = .next t ∧ WaitsOn n s t := by
  cases ha : s.agenda with
  | nil =>
    refine ⟨_, step_of_engineTurn_run (.inr ⟨ha, rfl⟩) h.run, ?_⟩
    rw [← ha]
    exact waitsOn_iterate h hq
  | cons e rest =>
    have hrest : rest ⊆ s.agenda := ha ▸ List.subset_cons_self e rest
    obtain ⟨t, ht, hon⟩ := exists_performEvent (s := { s with agenda := rest }) e
      ⟨h.run, h.sent, h.known, h.inTime⟩ (hq.of_subset rfl (List.Subset.refl _) hrest)
      (hq.agenda e (ha ▸ List.mem_cons_self))
    have hstep : step s = performEvent e { s with agenda := rest } := by
      unfold step nextEvent
      rw [ha]
    exact ⟨t, hstep.trans ht, ⟨hon.kept.eng, hon.kept.mcount, hon.kept.isOpen, hon.kept.busy⟩, hon.waiting,
      hon.undisturbed⟩

theorem exists_run_waitsOn (h : Waiting n s) (hq : Undisturbed s) :
    ∃ t, core.run n s = .next t ∧ WaitsOn 0 s t := by
  induction n generalizing s with
  | zero => exact ⟨s, rfl, .refl s, h, hq⟩
  | succ n ih =>
    obtain ⟨t, hstep, hon⟩ := exists_step_waitsOn h hq
    obtain ⟨u, hrun, hon'⟩ := ih hon.waiting hon.undisturbed
    exact ⟨u, (run_succ_of_step hstep n).trans hrun, hon.kept.trans hon'.kept, hon'.waiting, hon'.undisturbed⟩

end

/-- Settles O53: each step leaves the transaction waiting, with one sample fewer to come. -/
theorem waitingTransactionNeverFailsEarly : Obligations.WaitingTransactionNeverFailsEarly := by
  intro n s hrun hsent hknown htime
  have hwait : Waiting n s := ⟨hrun, hsent, hknown, htime⟩
  refine ⟨hwait.run_silent, fun hin hagenda => ?_⟩
  obtain ⟨t, ht, hon⟩ := exists_run_waitsOn hwait ⟨hin, hagenda⟩
  have hlast : t.clock.last ≤ t.eng.deadline := hon.waiting.inTime
  exact ⟨t, ht, hon.kept.eng, hon.kept.mcount, hon.kept.isOpen, hon.kept.busy, hon.kept.eng ▸ hlast⟩

/-! ### The end of a transaction (R216) -/

section
variable {s : State} {n : Nat}

/-- The clock has `n` increments to come, each at least one tick. -/
structure Ticking (n : Nat) (c : Clock) : Prop where
  known : n ≤ c.pending.length
  grows : ∀ d ∈ c.pending, 1 ≤ d

theorem Ticking.sample {c : Clock} (h : Ticking (n + 1) c) : c.last + 1 ≤ c.sample.last ∧ Ticking n c.sample := by
  obtain ⟨d, ds, hp⟩ := List.exists_cons_of_length_pos (Nat.lt_of_lt_of_le n.succ_pos h.known)
  have hknown := h.known
  have hgrows := h.grows
  rw [hp, List.length_cons] at hknown
  rw [hp] at hgrows
  rw [sample_of_pending hp]
  exact ⟨Nat.add_le_add_left (hgrows d List.mem_cons_self) _, Nat.le_of_succ_le_succ hknown,
    fun e he => hgrows e (List.mem_cons_of_mem d he)⟩

/-- The transaction has ended, and nobody else has an event to come. -/
structure Ended (s : State) : Prop where
  idle : s.eng.state = .idle
  closed : s.chan.isOpen = false
  busy : statusBusy s.status = false
  agenda : s.agenda = []

theorem ended_finishTransaction (ha : s.agenda = []) : Ended (finishTransaction s) :=
  ⟨rfl, rfl, statusBusy_setBusy false _, ha⟩

/-- An ended transaction stays ended (70_reset_and_hazards.md R282). -/
theorem Ended.run_eq (h : Ended s) (n : Nat) : core.run n s = .next s := by
  have hstep : step s = .next s := by
    rw [step_of_engineTurn_idle (.inr ⟨h.agenda, rfl⟩) h.idle, ← h.agenda]
  induction n with
  | zero => rfl
  | succ n ih => exact (run_succ_of_step hstep n).trans ih

/-- An iteration that does not end the transaction leaves the engine as the send part did, and takes one sample. -/
structure GoesOn (s t : State) : Prop where
  eng : t.eng = (sendPart s).eng
  clock : t.clock = (sendPart s).clock.sample
  agenda : t.agenda = s.agenda
  inTime : t.clock.last ≤ t.eng.deadline

theorem ended_or_goesOn (ha : s.agenda = []) : Ended (iterate s) ∨ GoesOn s (iterate s) := by
  have hagenda := (sendPart_agenda s).trans ha
  rcases iterate_cases s with ⟨-, hi⟩ | ⟨htime, hi⟩
  · exact .inl (hi ▸ ended_finishTransaction hagenda)
  · rw [hi]
    rcases receivePart_cases { sendPart s with clock := (sendPart s).clock.sample } with
      ⟨-, hr⟩ | ⟨b, rest, -, ⟨-, hr⟩ | ⟨-, hr⟩⟩ <;> rw [hr]
    · exact .inr ⟨rfl, rfl, sendPart_agenda s, htime⟩
    · rw [receiveMarker_eq_count]
      split
      · exact .inl (ended_finishTransaction hagenda)
      · exact .inr ⟨rfl, rfl, sendPart_agenda s, htime⟩
    · obtain ⟨kept, hclock, -, hsame⟩ := receiveData_kept
        { sendPart s with
          clock := (sendPart s).clock.sample, chan := { (sendPart s).chan with inbound := rest } } b
      exact .inr ⟨kept.eng, hclock, hsame.trans (sendPart_agenda s), by rw [hclock, kept.eng]; exact htime⟩

/-- A run that ends, or that goes on and ends from there, ends. -/
theorem exists_run_ended (hrun : s.eng.state = .run) (ha : s.agenda = [])
    (h : GoesOn s (iterate s) → ∃ t, core.run n (iterate s) = .next t ∧ Ended t) :
    ∃ t, core.run (n + 1) s = .next t ∧ Ended t := by
  have hstep : step s = .next (iterate s) := by
    rw [step_of_engineTurn_run (.inr ⟨ha, rfl⟩) hrun, ← ha]
  rw [run_succ_of_step hstep]
  exact (ended_or_goesOn ha).elim (fun hend => ⟨_, hend.run_eq n, hend⟩) h

/-- With nothing left to send the deadline stays, and each sample is one tick nearer to it. -/
theorem exists_run_ended_of_sent {g : Nat} (hrun : s.eng.state = .run) (ha : s.agenda = [])
    (hsent : s.eng.units.length ≤ s.eng.k) (hdeadline : s.eng.deadline ≤ s.clock.last + g)
    (hticks : Ticking (g + 1) s.clock) : ∃ t, core.run (g + 1) s = .next t ∧ Ended t := by
  induction g generalizing s with
  | zero =>
    refine exists_run_ended hrun ha fun hon => ?_
    obtain ⟨hnear, -⟩ := hticks.sample
    have htime := hon.inTime
    rw [hon.clock, hon.eng, sendPart_of_sent hsent] at htime
    omega
  | succ g ih =>
    refine exists_run_ended hrun ha fun hon => ?_
    obtain ⟨hnear, hticks'⟩ := hticks.sample
    have heng := hon.eng
    have hclock := hon.clock
    rw [sendPart_of_sent hsent] at heng hclock
    refine ih (by rwa [heng]) (hon.agenda.trans ha) (by rwa [heng]) ?_ (by rwa [hclock])
    rw [heng, hclock]
    omega

/-- Each unit takes one iteration and two samples, and sets the deadline at most TIMEOUT ahead. -/
theorem exists_run_ended_of_units {u : Nat} (hrun : s.eng.state = .run) (ha : s.agenda = [])
    (hunits : s.eng.units.length - s.eng.k = u) (hdeadline : s.eng.deadline ≤ s.clock.last + s.eng.timeout)
    (hticks : Ticking (2 * u + s.eng.timeout + 1) s.clock) :
    ∃ t, core.run (u + s.eng.timeout + 1) s = .next t ∧ Ended t := by
  induction u generalizing s with
  | zero =>
    rw [Nat.mul_zero, Nat.zero_add] at hticks
    rw [Nat.zero_add]
    exact exists_run_ended_of_sent hrun ha (by omega) hdeadline hticks
  | succ u ih =>
    rw [show u + 1 + s.eng.timeout + 1 = u + s.eng.timeout + 1 + 1 by omega]
    refine exists_run_ended hrun ha fun hon => ?_
    have hunit : s.eng.units[s.eng.k]? = some (s.eng.units[s.eng.k]'(by omega)) := List.getElem?_eq_getElem _
    have heng := hon.eng
    have hclock := hon.clock
    rw [sendPart_of_unit hunit] at heng hclock
    rw [show 2 * (u + 1) + s.eng.timeout + 1 = 2 * u + s.eng.timeout + 1 + 1 + 1 by omega] at hticks
    obtain ⟨-, hticks'⟩ := hticks.sample
    obtain ⟨hnear, hticks''⟩ := hticks'.sample
    have htimeout : (iterate s).eng.timeout = s.eng.timeout := by rw [heng]
    rw [← htimeout]
    refine ih (by rwa [heng]) (hon.agenda.trans ha) ?_ ?_ (by rwa [hclock, htimeout])
    · rw [heng]
      dsimp only
      omega
    · rw [heng, hclock]
      dsimp only at hnear ⊢
      omega

end

/-- Settles O54: the units are sent one by one, then the clock runs past the last deadline. -/
theorem transactionEndsWhenTheClockGrows : Obligations.TransactionEndsWhenTheClockGrows := by
  intro s hrun ha hdeadline hgrows hknown
  obtain ⟨t, ht, hend⟩ := exists_run_ended_of_units hrun ha rfl hdeadline ⟨hknown, hgrows⟩
  exact ⟨t, ht, hend.idle, hend.closed, hend.busy⟩

end Sys2Proof.Machine
end

section
/-! The outside world across a step: the clock never runs back and the configuration is fixed (60_exceptions.md R256,
00_scope.md R5), and the channel's agent appends what it delivers (60_exceptions.md R258). -/

namespace Sys2Proof.Machine

/-! ### The clock -/

/-- Of all commands, only TXEXEC takes a sample. -/
theorem le_clock_of_exec {i : Instr} {s t : State} (hexec : exec i s = .next t) : s.clock.last ≤ t.clock.last := by
  obtain ⟨t', ht, did⟩ := exec_cases i s
  obtain rfl : t' = t := Host.Outcome.next.inj (ht.symm.trans hexec)
  rcases did with ⟨ra, rb, rfl⟩ | rfl | ⟨val, rfl⟩ | rfl | ⟨-, rfl⟩ | ⟨-, rfl⟩
  · exact le_rfl
  · exact le_rfl
  · rcases addField_cases s val with ⟨-, ha⟩ | ⟨-, -, ha⟩ | ⟨v, -, -, ha⟩ <;> rw [ha] <;> exact le_rfl
  · exact le_rfl
  · exact le_rfl
  · exact le_sample_last s.clock

theorem le_sendPart_clock (s : State) : s.clock.last ≤ (sendPart s).clock.last := by
  rcases sendPart_cases s with ⟨u, -, hs⟩ | ⟨-, hs⟩ <;> rw [hs]
  exact le_sample_last s.clock

@[simp] theorem receiveMarker_clock (s : State) : (receiveMarker s).clock = s.clock := by
  rcases receiveMarker_cases s with ⟨-, hm⟩ | ⟨-, hm⟩ <;> rw [hm]
  exact finishTransaction_clock _

@[simp] theorem receiveData_clock (s : State) (b : Byte) : (receiveData s b).clock = s.clock := by
  obtain ⟨-, hclock, -, -⟩ := receiveData_kept s b
  exact hclock

@[simp] theorem receivePart_clock (s : State) : (receivePart s).clock = s.clock := by
  rcases receivePart_cases s with ⟨-, hr⟩ | ⟨b, rest, -, ⟨-, hr⟩ | ⟨-, hr⟩⟩ <;> rw [hr]
  · exact receiveMarker_clock _
  · exact receiveData_clock _ b

/-- Behind the send part an iteration takes one sample, the deadline's, whether it ends there or goes on. -/
theorem iterate_clock (s : State) : (iterate s).clock = (sendPart s).clock.sample := by
  rcases iterate_cases s with ⟨-, hi⟩ | ⟨-, hi⟩ <;> rw [hi]
  · exact finishTransaction_clock _
  · exact receivePart_clock _

theorem le_iterate_clock (s : State) : s.clock.last ≤ (iterate s).clock.last := by
  rw [iterate_clock]
  exact (le_sendPart_clock s).trans (le_sample_last _)

@[simp] theorem writeReg_clock (s : State) (r : Reg) (v : Word) : (writeReg s r v).clock = s.clock :=
  (accessKept_writeReg s r v).clock

@[simp] theorem writeReg_cfg (s : State) (r : Reg) (v : Word) : (writeReg s r v).cfg = s.cfg := by
  cases r <;> rfl

/-- Settles O11: only TXEXEC and an iteration touch the clock, each by samples. -/
theorem clockNeverRunsBackwards : Obligations.ClockNeverRunsBackwards := by
  intro s t hstep
  cases stepDid_of_step hstep with
  | iterated rest _ => exact ⟨le_iterate_clock { s with agenda := rest }, (blockFrame_iterate _).cfg⟩
  | executed i rest _ _ hexec => exact ⟨le_clock_of_exec (s := { s with agenda := rest }) hexec, (blockFrame_exec hexec).cfg⟩
  | storedReg r v rest _ => exact ⟨by rw [writeReg_clock], writeReg_cfg _ r v⟩
  | waited rest _ => exact ⟨le_rfl, rfl⟩
  | delivered b rest => exact ⟨le_rfl, rfl⟩
  | wasReset rest _ => exact ⟨le_rfl, rfl⟩
  | answered r rest => exact ⟨le_rfl, rfl⟩
  | readFailed r rest => exact ⟨le_rfl, rfl⟩
  | storedByte b a v rest _ _ => exact ⟨le_rfl, rfl⟩
  | writeFailed rest => exact ⟨le_rfl, rfl⟩
  | illegal rest => exact ⟨le_rfl, rfl⟩

/-! ### Delivery -/

/-- A delivery touches the inbound FIFO only, and that only while the channel is open. -/
theorem deliver_eq (c : Channel) (b : Byte) :
    c.deliver b = { c with inbound := if c.isOpen then c.inbound ++ [b] else c.inbound } := by
  unfold Channel.deliver
  split <;> rfl

theorem step_of_agenda_eq_deliver {s : State} {b : Byte} {rest : List Event} (ha : s.agenda = .deliver b :: rest) :
    step s = .next { s with agenda := rest, chan := s.chan.deliver b } := by
  unfold step nextEvent
  rw [ha]
  rfl

/-- Settles O14: the step performs the delivery at the head of the agenda. -/
theorem deliveryAppendsToTheOpenChannel : Obligations.DeliveryAppendsToTheOpenChannel := by
  intro s b rest ha
  rw [step_of_agenda_eq_deliver ha, deliver_eq]

end Sys2Proof.Machine
end

section
/-! Reset, waiting, and the hazards of the host's accesses: the one host fault, and what the host cannot do to a running
transaction (70_reset_and_hazards.md R280-R286). -/

namespace Sys2Proof.Machine

variable {s t : State}

/-- A step performs the event at the head of the agenda (20_memory.md R70). -/
theorem step_of_agenda_eq_cons {e : Event} {rest : List Event} (ha : s.agenda = e :: rest) :
    step s = performEvent e { s with agenda := rest } := by
  unfold step nextEvent
  rw [ha]

/-! ### The host fault (R285, R286) -/

theorem step_of_breaksDuty (h : s.breaksDuty) : step s = .fault .cmdWhileBusy := by
  obtain ⟨hbusy, w, rest, ha⟩ := h
  rw [step_of_agenda_eq_cmd ha]
  exact if_pos hbusy

/-- While no transaction runs every word is turned away or executed. -/
theorem exists_issue_eq_next (w : Word) (hidle : statusBusy s.status = false) : ∃ t, issue w s = .next t := by
  rcases issue_cases w s with ⟨hbusy, -⟩ | ⟨-, -, hi⟩ | ⟨i, -, -, hi⟩
  · rw [hidle] at hbusy; cases hbusy
  · exact ⟨_, hi⟩
  · obtain ⟨t, ht, -⟩ := exec_cases i s
    exact ⟨t, hi.trans ht⟩

/-- Where the host does its duty, every event has a next state. -/
theorem exists_performEvent_eq_next (e : Event) (h : statusBusy s.status = true → ¬ e.writesCmd) :
    ∃ t, performEvent e s = .next t := by
  cases e with
  | engine => exact ⟨_, rfl⟩
  | deliver b => exact ⟨_, rfl⟩
  | reset => exact ⟨_, rfl⟩
  | host a =>
    cases a with
    | read width addr => exact ⟨_, rfl⟩
    | write width addr v =>
      by_cases hcmd : Event.writesCmd (.host (.write width addr v))
      · obtain ⟨w, hw⟩ := hcmd
        cases hw
        exact exists_issue_eq_next v (Bool.eq_false_iff.mpr fun hbusy => h hbusy ⟨v, rfl⟩)
      · obtain ⟨t, ht, -⟩ := exists_hostWrite_eq_next hcmd s
        exact ⟨t, ht⟩

theorem exists_step_of_not_breaksDuty (h : ¬ s.breaksDuty) : ∃ t, step s = .next t := by
  cases ha : s.agenda with
  | nil => exact ⟨_, step_of_engineTurn (.inr ⟨ha, rfl⟩)⟩
  | cons e rest =>
    rw [step_of_agenda_eq_cons ha]
    refine exists_performEvent_eq_next e fun hbusy ⟨w, hw⟩ => h ⟨hbusy, w, rest, ?_⟩
    rw [ha, hw]

/-- Settles O5: a step that breaks the duty faults, and every other has a next state. -/
theorem faultsExactlyOnCmdWhileBusy : Obligations.FaultsExactlyOnCmdWhileBusy := by
  refine ⟨fun s => ⟨fun ⟨f, hf⟩ => ?_, fun h => ⟨_, step_of_breaksDuty h⟩⟩, fun s r hr => ?_⟩
  · by_contra h
    obtain ⟨t, ht⟩ := exists_step_of_not_breaksDuty h
    cases ht.symm.trans hf
  · by_cases h : s.breaksDuty
    · cases (step_of_breaksDuty h).symm.trans hr
    · obtain ⟨t, ht⟩ := exists_step_of_not_breaksDuty h
      cases ht.symm.trans hr

/-! ### What can end a transaction (R281, R285) -/

/-- While BUSY a host write that has a next state is no write of CMD, and so touches nothing of the transaction. -/
theorem accessKept_of_hostWrite {width : Nat} {addr : HostAddr} {v : Word} (hbusy : statusBusy s.status = true)
    (h : hostWrite s width addr v = .next t) : AccessKept s t := by
  have hcmd : ¬ Event.writesCmd (.host (.write width addr v)) := by
    rintro ⟨w, hw⟩
    cases hw
    have hfault : hostWrite s 32 0x000 v = .fault .cmdWhileBusy := if_pos hbusy
    cases hfault.symm.trans h
  obtain ⟨t', ht, kept⟩ := exists_hostWrite_eq_next hcmd s
  obtain rfl : t' = t := Host.Outcome.next.inj (ht.symm.trans h)
  exact kept

theorem transactionKept_of_performEvent {e : Event} (hbusy : statusBusy s.status = true) (hengine : e ≠ .engine)
    (hreset : e ≠ .reset) (h : performEvent e s = .next t) : TransactionKept s t ∧ t.clock = s.clock := by
  cases e with
  | engine => exact absurd rfl hengine
  | reset => exact absurd rfl hreset
  | deliver b =>
    cases h
    exact ⟨⟨rfl, rfl, deliver_isOpen s.chan b, rfl⟩, rfl⟩
  | host a =>
    cases a with
    | read width addr =>
      cases h
      have kept := accessKept_hostRead s width addr
      exact ⟨kept.transactionKept, kept.clock⟩
    | write width addr v =>
      have kept := accessKept_of_hostWrite hbusy h
      exact ⟨kept.transactionKept, kept.clock⟩

/-- Settles O12: of the host's accesses only a CMD write could touch the transaction, and it has no next state. -/
theorem onlyTheEngineOrResetEndsATransaction : Obligations.OnlyTheEngineOrResetEndsATransaction := by
  intro s t e rest hbusy ha hengine hreset hstep
  rw [step_of_agenda_eq_cons ha] at hstep
  obtain ⟨kept, hclock⟩ := transactionKept_of_performEvent (s := { s with agenda := rest }) hbusy hengine hreset hstep
  exact ⟨kept.eng, kept.busy.trans hbusy, kept.isOpen, hclock⟩

/-! ### What the host writes while a transaction runs (R201, R285)

An iteration reads neither the registers the host owns nor the buffers, and what it does to the buffers is one store of
bytes that do not depend on either. -/

/-- `s` with the registers the host owns and the buffers of `h`. -/
def State.withHostSide (s h : State) : State :=
  { s with
    opa := h.opa, opb := h.opb, dlen := h.dlen, txlen := h.txlen, timeout := h.timeout, expect := h.expect
    txcfg := h.txcfg, bitrate := h.bitrate, mem := h.mem }

/-- Consecutive bytes stored from an address up, and nothing else. -/
def State.storing (s : State) (a : Nat) (bs : List Byte) : State := { s with mem := Memory.writeBytes s.mem a bs }

@[simp] theorem withHostSide_mem (s h : State) : (s.withHostSide h).mem = h.mem := rfl

@[simp] theorem storing_mem (s : State) (a : Nat) (bs : List Byte) :
    (s.storing a bs).mem = Memory.writeBytes s.mem a bs := rfl

/-- A store into a register is a change of the host's side. -/
theorem withHostSide_writeReg (s : State) (r : Reg) (v : Word) : s.withHostSide (writeReg s r v) = writeReg s r v := by
  cases r <;> rfl

/-- So is a change of the buffers. -/
theorem withHostSide_withMem (s : State) (m : Memory) : s.withHostSide { s with mem := m } = { s with mem := m } := rfl

/-- From `s` on, `f` neither reads the host's side nor changes it but for one store of bytes into the buffers. -/
def BlindStore (f : State → State) (s : State) : Prop :=
  ∃ a bs, ∀ h, f (s.withHostSide h) = (f s).withHostSide (h.storing a bs)

theorem sendPart_withHostSide (s h : State) : sendPart (s.withHostSide h) = (sendPart s).withHostSide h := by
  rcases sendPart_cases s with ⟨u, hu, hs⟩ | ⟨hsent, hs⟩ <;> rw [hs]
  · exact sendPart_of_unit (s := s.withHostSide h) hu
  · exact sendPart_of_sent (s := s.withHostSide h) hsent

theorem blindStore_receiveMarker (s : State) : BlindStore receiveMarker s := by
  refine ⟨Buf.moff.addr (2 * s.mcount.toNat), offsetBytes s.rxlen, fun h => ?_⟩
  by_cases hreached : s.eng.expect ≤ (s.mcount + 1).toNat
  · rw [receiveMarker_of_reached hreached]
    exact receiveMarker_of_reached (s := s.withHostSide h) hreached
  · rw [receiveMarker_of_missing hreached]
    exact receiveMarker_of_missing (s := s.withHostSide h) hreached

theorem blindStore_receiveData (s : State) (b : Byte) : BlindStore (receiveData · b) s := by
  by_cases hroom : s.rxlen.toNat < s.cfg.rxCap
  · refine ⟨Buf.rx.addr s.rxlen.toNat, [b], fun h => ?_⟩
    dsimp only
    rw [receiveData_eq_append s b hroom]
    exact receiveData_eq_append (s.withHostSide h) b hroom
  · refine ⟨0, [], fun h => ?_⟩
    dsimp only
    rw [receiveData_of_full hroom]
    exact receiveData_of_full (s := s.withHostSide h) hroom

theorem blindStore_receivePart (s : State) : BlindStore receivePart s := by
  rcases hin : s.chan.inbound with _ | ⟨b, rest⟩
  · refine ⟨0, [], fun h => ?_⟩
    rw [receivePart_of_empty hin]
    exact receivePart_of_empty (s := s.withHostSide h) hin
  · by_cases hb : b = s.eng.marker
    · subst hb
      obtain ⟨a, bs, hstore⟩ := blindStore_receiveMarker { s with chan := { s.chan with inbound := rest } }
      refine ⟨a, bs, fun h => ?_⟩
      rw [receivePart_of_marker hin]
      exact (receivePart_of_marker (s := s.withHostSide h) hin).trans (hstore h)
    · obtain ⟨a, bs, hstore⟩ := blindStore_receiveData { s with chan := { s.chan with inbound := rest } } b
      refine ⟨a, bs, fun h => ?_⟩
      rw [receivePart_of_other hin hb]
      exact (receivePart_of_other (s := s.withHostSide h) hin hb).trans (hstore h)

theorem checkAndReceive_of_passed (h : s.eng.deadline < s.clock.sample.last) :
    checkAndReceive s = finishTransaction { s with clock := s.clock.sample } := if_pos h

theorem checkAndReceive_of_inTime (h : ¬ s.eng.deadline < s.clock.sample.last) :
    checkAndReceive s = receivePart { s with clock := s.clock.sample } := if_neg h

theorem blindStore_checkAndReceive (s : State) : BlindStore checkAndReceive s := by
  by_cases hpassed : s.eng.deadline < s.clock.sample.last
  · refine ⟨0, [], fun h => ?_⟩
    rw [checkAndReceive_of_passed hpassed]
    exact checkAndReceive_of_passed (s := s.withHostSide h) hpassed
  · obtain ⟨a, bs, hstore⟩ := blindStore_receivePart { s with clock := s.clock.sample }
    refine ⟨a, bs, fun h => ?_⟩
    rw [checkAndReceive_of_inTime hpassed]
    exact (checkAndReceive_of_inTime (s := s.withHostSide h) hpassed).trans (hstore h)

theorem blindStore_iterate (s : State) : BlindStore iterate s := by
  obtain ⟨a, bs, hstore⟩ := blindStore_checkAndReceive (sendPart s)
  refine ⟨a, bs, fun h => ?_⟩
  unfold iterate
  rw [sendPart_withHostSide]
  exact hstore h

/-- Settles O55: the iterations with and without the host's write are one blind store, over two host sides. -/
theorem runningTransactionIgnoresHostWrites : Obligations.RunningTransactionIgnoresHostWrites := by
  refine ⟨fun s r v _ => ?register, fun s a b => ?byte⟩
  all_goals
    obtain ⟨lo, bs, hstore⟩ := blindStore_iterate s
    have hself : iterate s = (iterate s).withHostSide (s.storing lo bs) := hstore s
  case register =>
    have hwrite := hstore (writeReg s r v)
    rw [withHostSide_writeReg] at hwrite
    rw [hwrite, hself]
    cases r <;> rfl
  case byte =>
    have hwrite := hstore { s with mem := Memory.write s.mem a b }
    rw [withHostSide_withMem] at hwrite
    dsimp only
    rw [hwrite, hself]
    refine ⟨rfl, fun x hx => ?_⟩
    rw [withHostSide_mem, withHostSide_mem, storing_mem, storing_mem, read_writeBytes, read_writeBytes,
      read_write_other _ _ _ _ hx]

/-! ### Reset and waiting (R280-R282) -/

/-- Settles O7: every register and byte is 0, and the engine and the channel are at rest. -/
theorem resetMeetsTheInvariant : Obligations.ResetMeetsTheInvariant where
  legal := by decide
  memory := ⟨wf_reset, nofun⟩
  status := ⟨by decide, by decide, by decide, by decide, nofun, by decide⟩
  frame := ⟨.inl rfl, nofun, fun _ _ _ => rfl⟩
  decode := ⟨by decide, fun _ _ _ => rfl⟩
  channel := ⟨by decide, fun _ => rfl, nofun⟩
  response := responseInv_of_cleared rfl rfl (fun _ _ => rfl) (fun _ _ => rfl)
  engine := ⟨rfl, le_rfl, by decide, nofun, nofun⟩
  result := resultInv_of_none (by decide)

/-- Settles O13: the turn is the engine's, which is IDLE. -/
theorem idleMachineWaits : Obligations.IdleMachineWaits := by
  intro s ha hidle
  rw [step_of_engineTurn_idle (.inr ⟨ha, rfl⟩) hidle, ← ha]

theorem step_of_agenda_eq_reset {rest : List Event} (ha : s.agenda = .reset :: rest) :
    step s = .next (resetBlock { s with agenda := rest }) := step_of_agenda_eq_cons ha

@[simp] theorem readReg_resetBlock (s : State) (r : Reg) : readReg (resetBlock s) r = 0 := by cases r <;> rfl

/-- `chan_close()` of a running transaction (70_reset_and_hazards.md R281). -/
theorem resetBlock_chan_of_run (hrun : s.eng.state = .run) : (resetBlock s).chan = s.chan.close := if_pos hrun

theorem resetBlock_chan_of_idle (hidle : s.eng.state = .idle) : (resetBlock s).chan = s.chan := by
  rw [resetBlock_chan, hidle]
  exact if_neg (by decide)

/-- Closed or not, the channel keeps its record of the rate and of the units handed over (log 9). -/
theorem resetBlock_chan_record (s : State) :
    (resetBlock s).chan.rate = s.chan.rate ∧ (resetBlock s).chan.outbound = s.chan.outbound := by
  rw [resetBlock_chan]
  split <;> exact ⟨rfl, rfl⟩

/-- Settles O15: the reset state's fields, and the channel of a running transaction closed. -/
theorem resetClearsTheBlock : Obligations.ResetClearsTheBlock := by
  intro s rest ha
  refine ⟨_, step_of_agenda_eq_reset ha, readReg_resetBlock _, fun _ => rfl, rfl, fun hrun => ?_⟩
  rw [resetBlock_chan_of_run (s := { s with agenda := rest }) hrun]
  exact ⟨close_isOpen s.chan, close_inbound s.chan⟩

/-- Settles O16: what `resetBlock` takes over from the state before it. -/
theorem resetLeavesTheEnvironment : Obligations.ResetLeavesTheEnvironment := by
  intro s rest ha
  obtain ⟨hrate, houtbound⟩ := resetBlock_chan_record { s with agenda := rest }
  exact ⟨_, step_of_agenda_eq_reset ha, resetBlock_chan_of_idle, hrate, houtbound, rfl, rfl, rfl, rfl⟩

end Sys2Proof.Machine
end
